-- ==== Sys2Proof/Word.lean ====
section
/-! DEFINITION. The words the CORE moves: bytes, the 32-bit command word and multi-word digits, and the
64-bit operand and register word (00_scope.md R9, 30_encoding.md R100). Every value is an unsigned bit
vector whose bit 0 is the least significant. -/

namespace Sys2Proof

/-- One byte of input, output or message (R11). -/
abbrev Byte := BitVec 8

/-- A command word CW (R100), or one 32-bit word of the multi-word engine (R56). -/
abbrev Word32 := BitVec 32

/-- An operand OP (R100), a register (R35), or one 64-bit word of the SHA unit (R54). -/
abbrev Word64 := BitVec 64

/-- A byte order, as the ORDER bits of CANON_CFG, FNV_CFG and CRC_CTRL select it (R80):
`big` is the bit 0, most significant byte first; `little` is the bit 1. -/
inductive ByteOrder where
  | big
  | little
deriving DecidableEq, Repr

end Sys2Proof
end

