-- ==== Sys2Proof/Syntax.lean ====
section
/-! DEFINITION. The commands of CORE-CMD version 1 (30_encoding.md): what the host presents (`Command`),
the 24 opcodes with their formats (R102, R106), and the decoded command `Instr`, one constructor for
each row of the opcode table. -/

namespace Sys2Proof

/-- What the host presents for every command: a command word and an operand (R100). -/
structure Command where
  cw : Word32
  op : Word64
deriving DecidableEq, Repr

/-- The five formats of R102, each fixing which fields of CW a command uses. -/
inductive Format where
  | n
  | b
  | i
  | w
  | e
deriving DecidableEq, Repr

/-- The 24 defined opcodes of R106, in the table's order. -/
inductive Opcode where
  | nop
  | reset
  | info
  | rdreg
  | wrreg
  | emit
  | fnvStart
  | fnvByte
  | fnvDigest
  | crcStart
  | crcByte
  | crcDigest
  | crcRdtab
  | shaInit
  | shaByte
  | shaFinal
  | shaDigest
  | shaRdh
  | mwLda
  | mwLdb
  | mwMul
  | mwXorb
  | mwRda
  | mwRdb
deriving DecidableEq, Repr

/-- A decoded command: the opcode with the operands that its format carries (R102, R104).
Format W and E commands keep the whole OP; each meaning takes the bits that its rule names.
Out-of-range values of UNIT, SZ and IDX are decoded commands (R104). -/
inductive Instr where
  /-- NOP (R131). -/
  | nop
  /-- RESET (R132). -/
  | reset
  /-- INFO idx (R133). -/
  | info (idx : Byte)
  /-- RDREG idx (R134). -/
  | rdreg (idx : Byte)
  /-- WRREG idx, value (R135). -/
  | wrreg (idx : Byte) (op : Word64)
  /-- EMIT unit, 2^sz, value (R152). -/
  | emit (unit : BitVec 4) (sz : BitVec 4) (op : Word64)
  /-- FNV_START (R194). -/
  | fnvStart
  /-- FNV_BYTE byte (R195). -/
  | fnvByte (b : Byte)
  /-- FNV_DIGEST (R196). -/
  | fnvDigest
  /-- CRC_START (R223). -/
  | crcStart
  /-- CRC_BYTE byte (R224). -/
  | crcByte (b : Byte)
  /-- CRC_DIGEST (R225). -/
  | crcDigest
  /-- CRC_RDTAB idx (R226). -/
  | crcRdtab (idx : Byte)
  /-- SHA_INIT (R260). -/
  | shaInit
  /-- SHA_BYTE byte (R262). -/
  | shaByte (b : Byte)
  /-- SHA_FINAL (R264). -/
  | shaFinal
  /-- SHA_DIGEST (R265). -/
  | shaDigest
  /-- SHA_RDH idx (R266). -/
  | shaRdh (idx : Byte)
  /-- MW_LDA idx, value (R172). -/
  | mwLda (idx : Byte) (op : Word64)
  /-- MW_LDB idx, value (R173). -/
  | mwLdb (idx : Byte) (op : Word64)
  /-- MW_MUL (R174). -/
  | mwMul
  /-- MW_XORB byte (R175). -/
  | mwXorb (b : Byte)
  /-- MW_RDA idx (R176). -/
  | mwRda (idx : Byte)
  /-- MW_RDB idx (R177). -/
  | mwRdb (idx : Byte)
deriving DecidableEq, Repr

/-- The opcode of a command. -/
def Instr.opcode : Instr → Opcode
  | .nop => .nop
  | .reset => .reset
  | .info _ => .info
  | .rdreg _ => .rdreg
  | .wrreg _ _ => .wrreg
  | .emit _ _ _ => .emit
  | .fnvStart => .fnvStart
  | .fnvByte _ => .fnvByte
  | .fnvDigest => .fnvDigest
  | .crcStart => .crcStart
  | .crcByte _ => .crcByte
  | .crcDigest => .crcDigest
  | .crcRdtab _ => .crcRdtab
  | .shaInit => .shaInit
  | .shaByte _ => .shaByte
  | .shaFinal => .shaFinal
  | .shaDigest => .shaDigest
  | .shaRdh _ => .shaRdh
  | .mwLda _ _ => .mwLda
  | .mwLdb _ _ => .mwLdb
  | .mwMul => .mwMul
  | .mwXorb _ => .mwXorb
  | .mwRda _ => .mwRda
  | .mwRdb _ => .mwRdb

end Sys2Proof
end

