-- ==== Sys2Proof/WellFormed.lean ====
section
/-! DEFINITION. The operand ranges of each command. Every field of `Instr` has exactly the width of its
field of CW or OP (R101), so every term of `Instr` can be encoded; what a command may still violate is
the legal range that its rule gives UNIT, SZ or IDX (R104, R291). `Instr.wellFormed` is that check.
A command that fails it is decoded all the same and raises INVALID_ARGUMENT (60_exceptions.md R291);
the spec's own words "well-formed command" in R291 mean one that decodes (log entry 11). -/

namespace Sys2Proof

/-- The 16 defined register indices of R35. -/
def definedRegisters : List Byte :=
  [0x00, 0x01, 0x10, 0x11, 0x20, 0x21, 0x22, 0x23, 0x24, 0x25, 0x26, 0x27, 0x30, 0x31, 0x32, 0x40]

/-- The indices of R35 whose access is read/write. -/
def writableRegisters : List Byte :=
  [0x01, 0x10, 0x20, 0x21, 0x22, 0x23, 0x40]

/-- Every operand lies in the range that the command's rule states: the complement, command by command,
of R291's complete list of INVALID_ARGUMENT causes. -/
def Instr.wellFormed : Instr → Bool
  | .nop => true
  | .reset => true
  | .info idx => decide (idx.toNat ≤ 4)
  | .rdreg idx => definedRegisters.contains idx
  | .wrreg idx _ => writableRegisters.contains idx
  | .emit unit sz _ => decide (unit.toNat ≤ 2) && decide (sz.toNat ≤ 3)
  | .fnvStart => true
  | .fnvByte _ => true
  | .fnvDigest => true
  | .crcStart => true
  | .crcByte _ => true
  | .crcDigest => true
  | .crcRdtab _ => true
  | .shaInit => true
  | .shaByte _ => true
  | .shaFinal => true
  | .shaDigest => true
  | .shaRdh idx => decide (idx.toNat ≤ 7)
  | .mwLda idx _ => decide (idx.toNat ≤ 31)
  | .mwLdb idx _ => decide (idx.toNat ≤ 31)
  | .mwMul => true
  | .mwXorb _ => true
  | .mwRda idx => decide (idx.toNat ≤ 31)
  | .mwRdb idx => decide (idx.toNat ≤ 31)

end Sys2Proof
end

