-- ==== Sys2Proof/Decode.lean ====
section
/-! DEFINITION. Decoding (30_encoding.md R101 to R109), total on every command word and operand and
rejecting by name, and after it the encoder, written from R110's last column
(`CW = match OR (index << 8)` and its like). -/

namespace Sys2Proof

/-- OPC of each opcode (R106). -/
def Opcode.code : Opcode → Byte
  | .nop => 0x00
  | .reset => 0x01
  | .info => 0x02
  | .rdreg => 0x03
  | .wrreg => 0x04
  | .emit => 0x08
  | .fnvStart => 0x10
  | .fnvByte => 0x11
  | .fnvDigest => 0x12
  | .crcStart => 0x20
  | .crcByte => 0x21
  | .crcDigest => 0x22
  | .crcRdtab => 0x23
  | .shaInit => 0x30
  | .shaByte => 0x31
  | .shaFinal => 0x32
  | .shaDigest => 0x33
  | .shaRdh => 0x34
  | .mwLda => 0x40
  | .mwLdb => 0x41
  | .mwMul => 0x42
  | .mwXorb => 0x43
  | .mwRda => 0x44
  | .mwRdb => 0x45

/-- The opcode that OPC names (R106); `none` for the reserved values of R108. -/
def Opcode.ofCode (opc : Byte) : Option Opcode :=
  match opc.toNat with
  | 0x00 => some .nop
  | 0x01 => some .reset
  | 0x02 => some .info
  | 0x03 => some .rdreg
  | 0x04 => some .wrreg
  | 0x08 => some .emit
  | 0x10 => some .fnvStart
  | 0x11 => some .fnvByte
  | 0x12 => some .fnvDigest
  | 0x20 => some .crcStart
  | 0x21 => some .crcByte
  | 0x22 => some .crcDigest
  | 0x23 => some .crcRdtab
  | 0x30 => some .shaInit
  | 0x31 => some .shaByte
  | 0x32 => some .shaFinal
  | 0x33 => some .shaDigest
  | 0x34 => some .shaRdh
  | 0x40 => some .mwLda
  | 0x41 => some .mwLdb
  | 0x42 => some .mwMul
  | 0x43 => some .mwXorb
  | 0x44 => some .mwRda
  | 0x45 => some .mwRdb
  | _ => none

/-- The format of each opcode (R106). -/
def Opcode.format : Opcode → Format
  | .nop => .n
  | .reset => .n
  | .info => .i
  | .rdreg => .i
  | .wrreg => .w
  | .emit => .e
  | .fnvStart => .n
  | .fnvByte => .b
  | .fnvDigest => .n
  | .crcStart => .n
  | .crcByte => .b
  | .crcDigest => .n
  | .crcRdtab => .i
  | .shaInit => .n
  | .shaByte => .b
  | .shaFinal => .n
  | .shaDigest => .n
  | .shaRdh => .i
  | .mwLda => .w
  | .mwLdb => .w
  | .mwMul => .n
  | .mwXorb => .b
  | .mwRda => .i
  | .mwRdb => .i

/-- The bits of CW that a format fixes: OPC and the fields that must be zero (R102, R106's CW mask). -/
def Format.mask : Format → Word32
  | .n => 0xFFFFFFFF
  | .b => 0xFFFFFF00
  | .i => 0xFFFF00FF
  | .w => 0xFFFF00FF
  | .e => 0xFF00FFFF

/-- R106's CW mask of an opcode. -/
def Opcode.mask (o : Opcode) : Word32 := o.format.mask

/-- R106's CW match of an opcode: OPC in CW[31:24], every other bit zero. -/
def Opcode.matchWord (o : Opcode) : Word32 := o.code.setWidth 32 <<< 24

/-- OPC = CW[31:24] (R101). -/
def opcField (cw : Word32) : Byte := cw.extractLsb' 24 8

/-- UNIT = CW[23:20] (R101). -/
def unitField (cw : Word32) : BitVec 4 := cw.extractLsb' 20 4

/-- SZ = CW[19:16] (R101). -/
def szField (cw : Word32) : BitVec 4 := cw.extractLsb' 16 4

/-- IDX = CW[15:8] (R101). -/
def idxField (cw : Word32) : Byte := cw.extractLsb' 8 8

/-- B8 = CW[7:0] (R101). -/
def b8Field (cw : Word32) : Byte := cw.extractLsb' 0 8

/-- Why a command word spells no command (R290): the two causes of ILLEGAL. -/
inductive DecodeError where
  /-- OPC is reserved (R108). -/
  | reservedOpcode (opc : Byte)
  /-- OPC is defined, and a field that its format requires to be zero is not (R103). -/
  | fieldNotZero (o : Opcode)
deriving DecidableEq, Repr

/-- The command of an opcode with the fields its format uses (R102, R107). -/
def Opcode.build (o : Opcode) (c : Command) : Instr :=
  match o with
  | .nop => .nop
  | .reset => .reset
  | .info => .info (idxField c.cw)
  | .rdreg => .rdreg (idxField c.cw)
  | .wrreg => .wrreg (idxField c.cw) c.op
  | .emit => .emit (unitField c.cw) (szField c.cw) c.op
  | .fnvStart => .fnvStart
  | .fnvByte => .fnvByte (b8Field c.cw)
  | .fnvDigest => .fnvDigest
  | .crcStart => .crcStart
  | .crcByte => .crcByte (b8Field c.cw)
  | .crcDigest => .crcDigest
  | .crcRdtab => .crcRdtab (idxField c.cw)
  | .shaInit => .shaInit
  | .shaByte => .shaByte (b8Field c.cw)
  | .shaFinal => .shaFinal
  | .shaDigest => .shaDigest
  | .shaRdh => .shaRdh (idxField c.cw)
  | .mwLda => .mwLda (idxField c.cw) c.op
  | .mwLdb => .mwLdb (idxField c.cw) c.op
  | .mwMul => .mwMul
  | .mwXorb => .mwXorb (b8Field c.cw)
  | .mwRda => .mwRda (idxField c.cw)
  | .mwRdb => .mwRdb (idxField c.cw)

/-- The decode procedure of R107: a reserved OPC is refused, then a non-zero must-be-zero field, and
otherwise the row's command is built. It reads no state and is total. -/
def decode (c : Command) : Except DecodeError Instr :=
  match Opcode.ofCode (opcField c.cw) with
  | none => .error (.reservedOpcode (opcField c.cw))
  | some o =>
    if c.cw &&& o.mask = o.matchWord then .ok (o.build c) else .error (.fieldNotZero o)

/-- CW of a command, by R110's last column. -/
def encodeWord (i : Instr) : Word32 :=
  match i with
  | .info idx | .rdreg idx | .crcRdtab idx | .shaRdh idx | .mwRda idx | .mwRdb idx =>
    i.opcode.matchWord ||| (idx.setWidth 32 <<< 8)
  | .wrreg idx _ | .mwLda idx _ | .mwLdb idx _ =>
    i.opcode.matchWord ||| (idx.setWidth 32 <<< 8)
  | .emit unit sz _ =>
    i.opcode.matchWord ||| (unit.setWidth 32 <<< 20) ||| (sz.setWidth 32 <<< 16)
  | .fnvByte b | .crcByte b | .shaByte b | .mwXorb b =>
    i.opcode.matchWord ||| b.setWidth 32
  | .nop | .reset | .fnvStart | .fnvDigest | .crcStart | .crcDigest | .shaInit | .shaFinal
  | .shaDigest | .mwMul =>
    i.opcode.matchWord

/-- OP of a command: its value in formats W and E, and 0 in the formats that ignore OP (R110). -/
def encodeOperand : Instr → Word64
  | .wrreg _ op | .mwLda _ op | .mwLdb _ op | .emit _ _ op => op
  | .nop | .reset | .info _ | .rdreg _ | .fnvStart | .fnvByte _ | .fnvDigest | .crcStart
  | .crcByte _ | .crcDigest | .crcRdtab _ | .shaInit | .shaByte _ | .shaFinal | .shaDigest
  | .shaRdh _ | .mwMul | .mwXorb _ | .mwRda _ | .mwRdb _ => 0

/-- The command that spells an instruction (R102, R106, R110). -/
def encode (i : Instr) : Command := { cw := encodeWord i, op := encodeOperand i }

/-- The command whose bits are `w` in the numbering of spec/opcode_table.json: CW is the first 32 bits,
OP the 64 bits above it; bits from `nbits` up are 0 (log entry 4). -/
def tableCommand (nbits w : Nat) : Command :=
  { cw := BitVec.ofNat 32 (w % 2 ^ nbits), op := BitVec.ofNat 64 ((w % 2 ^ nbits) / 2 ^ 32) }

/-- The instruction that the decoder reads from a table word. -/
def decodeTableWord (nbits w : Nat) : Option Instr :=
  match decode (tableCommand nbits w) with
  | .ok i => some i
  | .error _ => none

end Sys2Proof
end

