-- ==== Sys2Proof/Config.lean ====
section
/-! DEFINITION. What the spec leaves to the implementation or to the host: the OPEN parameters of
00_scope.md R8, and the one free value that a state no command produces could read. Each is opaque:
nothing can be proved about its value, so every claim holds whatever it is. -/

namespace Sys2Proof

/-- The constants that one FNV width fixes: `width` is W, `prime` P_W, `offset` O_W (43_fnv.md R191). -/
structure FnvParams where
  width : Nat
  prime : BitVec 1024
  offset : BitVec 1024
deriving DecidableEq, Repr, Inhabited

/-- The bit pattern and the size code (`n = 2^size` bytes) of a scalar, the pair `(v, n)` of R151. -/
structure ScalarBits where
  value : Word64
  size : BitVec 2
deriving DecidableEq, Repr, Inhabited

/-- FREE VALUE (log entry 5): what a computation would use if FNV were ACTIVE with a latched width code
6 or 7. FNV_START refuses those codes (R194), so no command produces such a state. -/
opaque Config.fnvReservedParams : BitVec 3 → FnvParams

/-- OPEN host-side parameter ABSENCE_BYTE (R8, R151; log entry 9). -/
opaque Config.absenceByte : Byte

/-- OPEN host-side parameter DATETIME_LAYOUT (R8, R151; log entry 9): the bits of a date/time value. The
argument numbers the host's date/time values. -/
opaque Config.dateTimeLayout : Nat → ScalarBits

end Sys2Proof
end

