-- ==== Sys2Proof/Machine/Constants.lean ====
section
/-! DEFINITION. The constants of the model (10_state.md R32): the FNV primes and offset bases (43_fnv.md
R191), the SHA-512/256 initial value and round constants (45_sha512_256.md R251, R252), the values that
INFO returns (40_control.md R133) and the legal CRC widths (10_state.md R43). The spec supplies the
FNV and SHA values from general knowledge, checked as R191, R251 and R252 say (log entry 12). -/

namespace Sys2Proof.Machine

open Sys2Proof

/-- Width, prime and offset basis of each FNV width code (R41, R191); codes 6 and 7 have none. The offset
basis of width 1024 has the 256 digits that R191's text counts: the table prints six zeros too many
in it (log entry 13). -/
def fnvParams? (code : BitVec 3) : Option FnvParams :=
  match code.toNat with
  | 0 => some
    { width := 32
      prime := 0x01000193
      offset := 0x811C9DC5 }
  | 1 => some
    { width := 64
      prime := 0x00000100000001B3
      offset := 0xCBF29CE484222325 }
  | 2 => some
    { width := 128
      prime := 0x0000000001000000000000000000013B
      offset := 0x6C62272E07BB014262B821756295C58D }
  | 3 => some
    { width := 256
      prime := 0x0000000000000000000001000000000000000000000000000000000000000163
      offset := 0xDD268DBCAAC550362D98C384C4E576CCC8B1536847B6BBB31023B4C8CAEE0535 }
  | 4 => some
    { width := 512
      prime := 0x00000000000000000000000000000000000000000100000000000000000000000000000000000000000000000000000000000000000000000000000000000157
      offset := 0xB86DB0B1171F4416DCA1E50F309990ACAC87D059C90000000000000000000D21E948F68A34C192F62EA79BC942DBE7CE182036415F56E34BAC982AAC4AFE9FD9 }
  | 5 => some
    { width := 1024
      prime := 0x000000000000000000000000000000000000000000000000000000000000000000000000000000000000010000000000000000000000000000000000000000000000000000000000000000000000000000000000000000000000000000000000000000000000000000000000000000000000000000000000000000000000018D
      offset := 0x0000000000000000005F7A76758ECC4D32E56D5A591028B74B29FC4223FDADA16C3BF34EDA3674DA9A21D9000000000000000000000000000000000000000000000000000000000000000000000000000000000000000000000000000004C6D7EB6E73802734510A555F256CC005AE556BDE8CC9C6A93B21AFF4B16C71EE90B3 }
  | _ => none

/-- The constants that a running computation uses under the latched width code (R192, R196). Codes 6
and 7 are never latched (R194); the free value stands there (log entry 5). -/
def fnvParams (code : BitVec 3) : FnvParams :=
  (fnvParams? code).getD (Config.fnvReservedParams code)

/-- The legal values of CRC_CTRL.WIDTH (R43). -/
def crcWidths : List Nat := [8, 16, 24, 32, 40, 48, 56, 64]

/-- The SHA-512/256 initial value IV[0..7] (R251). -/
def shaIv : Vector Word64 8 :=
  #v[0x22312194FC2BF72C, 0x9F555FA3C84C64C2,
     0x2393B86B6F53B151, 0x963877195940EABD,
     0x96283EE2A88EFFE3, 0xBE5E1E2553863992,
     0x2B0199FC2C85B8AA, 0x0EB72DDC81C52CA2]

/-- Round constants K[0..19] (R252). -/
def shaK0 : List Word64 :=
  [0x428A2F98D728AE22, 0x7137449123EF65CD, 0xB5C0FBCFEC4D3B2F, 0xE9B5DBA58189DBBC,
   0x3956C25BF348B538, 0x59F111F1B605D019, 0x923F82A4AF194F9B, 0xAB1C5ED5DA6D8118,
   0xD807AA98A3030242, 0x12835B0145706FBE, 0x243185BE4EE4B28C, 0x550C7DC3D5FFB4E2,
   0x72BE5D74F27B896F, 0x80DEB1FE3B1696B1, 0x9BDC06A725C71235, 0xC19BF174CF692694,
   0xE49B69C19EF14AD2, 0xEFBE4786384F25E3, 0x0FC19DC68B8CD5B5, 0x240CA1CC77AC9C65]

/-- Round constants K[20..39] (R252). -/
def shaK1 : List Word64 :=
  [0x2DE92C6F592B0275, 0x4A7484AA6EA6E483, 0x5CB0A9DCBD41FBD4, 0x76F988DA831153B5,
   0x983E5152EE66DFAB, 0xA831C66D2DB43210, 0xB00327C898FB213F, 0xBF597FC7BEEF0EE4,
   0xC6E00BF33DA88FC2, 0xD5A79147930AA725, 0x06CA6351E003826F, 0x142929670A0E6E70,
   0x27B70A8546D22FFC, 0x2E1B21385C26C926, 0x4D2C6DFC5AC42AED, 0x53380D139D95B3DF,
   0x650A73548BAF63DE, 0x766A0ABB3C77B2A8, 0x81C2C92E47EDAEE6, 0x92722C851482353B]

/-- Round constants K[40..59] (R252). -/
def shaK2 : List Word64 :=
  [0xA2BFE8A14CF10364, 0xA81A664BBC423001, 0xC24B8B70D0F89791, 0xC76C51A30654BE30,
   0xD192E819D6EF5218, 0xD69906245565A910, 0xF40E35855771202A, 0x106AA07032BBD1B8,
   0x19A4C116B8D2D0C8, 0x1E376C085141AB53, 0x2748774CDF8EEB99, 0x34B0BCB5E19B48A8,
   0x391C0CB3C5C95A63, 0x4ED8AA4AE3418ACB, 0x5B9CCA4F7763E373, 0x682E6FF3D6B2B8A3,
   0x748F82EE5DEFB2FC, 0x78A5636F43172F60, 0x84C87814A1F0AB72, 0x8CC702081A6439EC]

/-- Round constants K[60..79] (R252). -/
def shaK3 : List Word64 :=
  [0x90BEFFFA23631E28, 0xA4506CEBDE82BDE9, 0xBEF9A3F7B2C67915, 0xC67178F2E372532B,
   0xCA273ECEEA26619C, 0xD186B8C721C0C207, 0xEADA7DD6CDE0EB1E, 0xF57D4F7FEE6ED178,
   0x06F067AA72176FBA, 0x0A637DC5A2C898A6, 0x113F9804BEF90DAE, 0x1B710B35131C471B,
   0x28DB77F523047D84, 0x32CAAB7B40C72493, 0x3C9EBE0A15C9BEBC, 0x431D67C49C100D4C,
   0x4CC5D4BECB3E42B6, 0x597F299CFC657E2A, 0x5FCB6FAB3AD6FAEC, 0x6C44198C4A475817]

/-- Round constants K[0..79] (R252). -/
def shaK : List Word64 := shaK0 ++ shaK1 ++ shaK2 ++ shaK3

/-- What INFO returns for each selector (R133): the round count, the CRC table size, MW_LMAX, the SHA
block size in bytes, and the bitmap of supported FNV width codes. -/
def infoValue (selector : Byte) : Option Word64 :=
  match selector.toNat with
  | 0 => some 80
  | 1 => some 256
  | 2 => some 32
  | 3 => some 128
  | 4 => some 0x3F
  | _ => none

end Sys2Proof.Machine
end

