-- ==== Sys2Proof/Machine/State.lean ====
section
/-! DEFINITION. The architectural state of the CORE: the record of 10_state.md R34, unit by unit, and
beside it the command port (the commands the host has issued and the last response). State is plain
data. `State.reset` is 70_reset_and_hazards.md R320. -/

namespace Sys2Proof.Machine

open Sys2Proof

/-- The status of a command, with the codes 0 to 4 of R105; codes 5 to 15 are never returned. -/
inductive Status where
  | ok
  /-- The command word spells no command (R290). -/
  | illegal
  /-- A field is outside the command's legal range (R291). -/
  | invalidArgument
  /-- A unit is started or used with a configuration it does not support (R292). -/
  | unsupportedConfig
  /-- The command is not accepted in the unit's phase (R294). -/
  | sequence
deriving DecidableEq, Repr

/-- The payload of a response: nothing, a 64-bit value, or a byte list (R105). -/
inductive Payload where
  | none
  | value (v : Word64)
  | bytes (l : List Byte)
deriving DecidableEq, Repr

/-- The one response of a command (R105). -/
structure Response where
  status : Status
  payload : Payload
deriving DecidableEq, Repr

/-- FNV_CFG.MIX (R41): `a` XORs then multiplies, `b` multiplies then XORs. -/
inductive Mixing where
  | a
  | b
deriving DecidableEq, Repr

/-- FNV_PHASE and CRC_PHASE (R51, R53). -/
inductive Phase where
  | idle
  | active
deriving DecidableEq, Repr

/-- SHA_PHASE (R55); the value 3 never occurs (R37). -/
inductive ShaPhase where
  | ready
  | accum
  | final
deriving DecidableEq, Repr

/-- The fields of FNV_CFG and FNV_ACT (R41, R42). -/
structure FnvCfg where
  width : BitVec 3
  mix : Mixing
  order : ByteOrder
deriving DecidableEq, Repr

/-- The fields of CRC_CTRL and CRC_ACT_CTRL (R43, R46). -/
structure CrcCtrl where
  width : BitVec 7
  refin : Bool
  refout : Bool
  order : ByteOrder
deriving DecidableEq, Repr

/-- The FNV unit: FNV_CFG, FNV_ACT, FNV_PHASE, FNV_ACC (R34, R41, R42, R50, R51). -/
structure FnvUnit where
  cfg : FnvCfg
  act : FnvCfg
  phase : Phase
  acc : BitVec 1024
deriving DecidableEq, Repr

/-- The CRC unit: CRC_CTRL, CRC_POLY, CRC_INIT, CRC_XOROUT, the latched CRC_ACT_*, CRC_T, CRC_TVALID,
CRC_REG, CRC_PHASE (R34, R43 to R46, R52, R53). -/
structure CrcUnit where
  ctrl : CrcCtrl
  poly : Word64
  init : Word64
  xorout : Word64
  actCtrl : CrcCtrl
  actPoly : Word64
  actXorout : Word64
  table : Vector Word64 256
  tvalid : Bool
  reg : Word64
  phase : Phase
deriving DecidableEq, Repr

/-- The SHA unit: SHA_H, SHA_BUF, SHA_CUR, SHA_LEN_LO, SHA_LEN_HI, SHA_PHASE (R34, R47, R48, R54, R55). -/
structure ShaUnit where
  h : Vector Word64 8
  buf : Vector Byte 128
  cur : BitVec 7
  lenLo : Word64
  lenHi : Word64
  phase : ShaPhase
deriving DecidableEq, Repr

/-- The MW unit: MW_L, MW_A, MW_B (R34, R49, R56). -/
structure MwUnit where
  len : BitVec 6
  a : Vector Word32 32
  b : Vector Word32 32
deriving DecidableEq, Repr

/-- The state of the CORE: R34's record (LAST, STICKY, CANON_ORDER and the four units), and the command
port of R32 and R100: `pending` holds the commands that the host issues, in issue order, which the CORE
has not yet taken, and `response` the response to the command completed last (R105; log entries 1, 3). -/
structure State where
  last : Status
  sticky : BitVec 4
  canonOrder : ByteOrder
  fnv : FnvUnit
  crc : CrcUnit
  sha : ShaUnit
  mw : MwUnit
  pending : List Command
  response : Option Response
deriving DecidableEq, Repr

/-- Why the machine stops with a fault. It has no constructor: a step of the CORE is total and never
stuck (40_control.md R130), and every error is a status in a response (60_exceptions.md R295, R298).
That no fault exists is safe only because no rule of the spec stops the machine. -/
inductive Fault where
deriving DecidableEq, Repr

/-- Why the model has no meaning for an instruction. -/
inductive Refusal where
  /-- Raised by an arm of `exec` for an instruction without a meaning. No arm raises it: every
  instruction of the table has its meaning. Safe: a refusal proves nothing about a next state. -/
  | notModelled (mnemonic : String)
deriving DecidableEq, Repr

/-- The state right after power-on or RESET (R320, R34's reset column); the port holds no command and
no response (log entries 1, 3). -/
def State.reset : State where
  last := .ok
  sticky := 0
  canonOrder := .big
  fnv :=
    { cfg := { width := 0, mix := .a, order := .big }
      act := { width := 0, mix := .a, order := .big }
      phase := .idle
      acc := 0 }
  crc :=
    { ctrl := { width := 32, refin := true, refout := true, order := .big }
      poly := 0x04C11DB7
      init := 0xFFFFFFFF
      xorout := 0xFFFFFFFF
      actCtrl := { width := 0, refin := false, refout := false, order := .big }
      actPoly := 0
      actXorout := 0
      table := Vector.replicate 256 0
      tvalid := false
      reg := 0
      phase := .idle }
  sha :=
    { h := shaIv
      buf := Vector.replicate 128 0
      cur := 0
      lenLo := 0
      lenHi := 0
      phase := .ready }
  mw :=
    { len := 4
      a := Vector.replicate 32 0
      b := Vector.replicate 32 0 }
  pending := []
  response := none

end Sys2Proof.Machine
end

