-- ==== Sys2Proof/Machine/Operands.lean ====
section
/-! DEFINITION. Operand forms and the bit and byte helpers they use: byte lists in either order (00_scope.md
R11), bit reflection and rotation (R10), reduction modulo 2^n, word arrays, and the operands of EMIT
(41_canonicalizer.md R152), WRREG (40_control.md R135) and the multi-word commands (42_multiword.md
R172). -/

namespace Sys2Proof.Machine

open Sys2Proof

/-- `x mod 2^n`, in the width of `x` (R10). -/
def keepLow {w : Nat} (n : Nat) (x : BitVec w) : BitVec w := (x.setWidth n).setWidth w

/-- `LE_n(x)`: byte k is `x[8k+7:8k]` (R11). -/
def leBytes {w : Nat} (n : Nat) (x : BitVec w) : List Byte :=
  (List.range n).map fun k => x.extractLsb' (8 * k) 8

/-- `BE_n(x)`, the reversal of `LE_n(x)` (R11). -/
def beBytes {w : Nat} (n : Nat) (x : BitVec w) : List Byte := (leBytes n x).reverse

/-- `ORDERED_n(x, o)` (R11). -/
def orderedBytes {w : Nat} (n : Nat) (x : BitVec w) (o : ByteOrder) : List Byte :=
  match o with
  | .big => beBytes n x
  | .little => leBytes n x

/-- `reflect_n(x)`: bit i is bit `n - 1 - i` of `x` for `i < n`, in the width of `x` (R10). -/
def reflect {w : Nat} (n : Nat) (x : BitVec w) : BitVec w := ((x.setWidth n).reverse).setWidth w

/-- `ROTR_64(x, k)` (R10). -/
def rotr (x : Word64) (k : Nat) : Word64 := (x >>> k) ||| (x <<< (64 - k))

/-- The word array of `n` elements whose element k is `f k`. -/
def tabulate {α : Type} (n : Nat) (f : Nat → α) : Vector α n :=
  ⟨((List.range n).map f).toArray, by simp⟩

/-- Word k of the little-endian array of 32-bit words that stands for `x`: `x[32k+31:32k]` (R14, R178). -/
def wordOf {w : Nat} (x : BitVec w) (k : Nat) : Word32 := x.extractLsb' (32 * k) 32

/-- `EXPAND(c, L)` (R178). -/
def expandWords {w : Nat} (c : BitVec w) (l : Nat) : List Word32 := (List.range l).map (wordOf c)

/-- The 1024-bit number of a little-endian array of at most 32 words (R50). -/
def wordsNumber : List Word32 → BitVec 1024
  | [] => 0
  | x :: xs => (wordsNumber xs <<< 32) ||| x.setWidth 1024

/-- The unit that UNIT selects (R101, R104). -/
inductive EmitUnit where
  | fnv
  | crc
  | sha
deriving DecidableEq, Repr

/-- UNIT 0 is FNV, 1 CRC, 2 SHA; every other value is out of range (R104, R152). -/
def emitUnit (code : BitVec 4) : Option EmitUnit :=
  match code.toNat with
  | 0 => some .fnv
  | 1 => some .crc
  | 2 => some .sha
  | _ => none

/-- `n = 2^SZ` for SZ 0 to 3; every other value is out of range (R104, R152). -/
def emitSize (sz : BitVec 4) : Option Nat :=
  if sz.toNat ≤ 3 then some (2 ^ sz.toNat) else none

/-- `CANON(v, n, o) = ORDERED_n(v[8n-1:0], o)` (R150). -/
def canonBytes (v : Word64) (n : Nat) (o : ByteOrder) : List Byte :=
  orderedBytes n (v.setWidth (8 * n)) o

/-- `OP[31:0]`, the operand of MW_LDA and MW_LDB (R172, R173). -/
def operandWord (op : Word64) : Word32 := op.setWidth 32

/-- The word index of a multi-word command, 0 to 31 (R172, R176). -/
def wordIndex (idx : Byte) : Option (Fin 32) :=
  if h : idx.toNat < 32 then some ⟨idx.toNat, h⟩ else none

/-- The word index of SHA_RDH, 0 to 7 (R266). -/
def shaIndex (idx : Byte) : Option (Fin 8) :=
  if h : idx.toNat < 8 then some ⟨idx.toNat, h⟩ else none

/-- The 16 registers of R35. -/
inductive Reg where
  | status
  | canonCfg
  | fnvCfg
  | fnvAct
  | crcCtrl
  | crcPoly
  | crcInit
  | crcXorout
  | crcReg
  | crcActCtrl
  | crcActPoly
  | crcActXorout
  | shaLenLo
  | shaLenHi
  | shaCur
  | mwCfg
deriving DecidableEq, Repr

/-- The register that an index names; `none` for the reserved indices (R35). -/
def regOf (idx : Byte) : Option Reg :=
  match idx.toNat with
  | 0x00 => some .status
  | 0x01 => some .canonCfg
  | 0x10 => some .fnvCfg
  | 0x11 => some .fnvAct
  | 0x20 => some .crcCtrl
  | 0x21 => some .crcPoly
  | 0x22 => some .crcInit
  | 0x23 => some .crcXorout
  | 0x24 => some .crcReg
  | 0x25 => some .crcActCtrl
  | 0x26 => some .crcActPoly
  | 0x27 => some .crcActXorout
  | 0x30 => some .shaLenLo
  | 0x31 => some .shaLenHi
  | 0x32 => some .shaCur
  | 0x40 => some .mwCfg
  | _ => none

/-- Whether a register's access is read/write (R35). -/
def regWritable : Reg → Bool
  | .canonCfg | .fnvCfg | .crcCtrl | .crcPoly | .crcInit | .crcXorout | .mwCfg => true
  | .status | .fnvAct | .crcReg | .crcActCtrl | .crcActPoly | .crcActXorout | .shaLenLo
  | .shaLenHi | .shaCur => false

/-- The implemented bits of a register (R35). -/
def regMask : Reg → Word64
  | .status => 0x00000000013F0F0F
  | .canonCfg => 0x1
  | .fnvCfg => 0x117
  | .fnvAct => 0x117
  | .crcCtrl => 0x137F
  | .crcActCtrl => 0x137F
  | .shaCur => 0x7F
  | .mwCfg => 0x3F
  | .crcPoly | .crcInit | .crcXorout | .crcReg | .crcActPoly | .crcActXorout | .shaLenLo
  | .shaLenHi => 0xFFFFFFFFFFFFFFFF

end Sys2Proof.Machine
end

