-- ==== Sys2Proof/Machine/Flags.lean ====
section
/-! DEFINITION. Every flag and register word that is composed from fields: the status codes and sticky
bits (10_state.md R37, R38), the STATUS word (R37), and the register forms of CANON_CFG, FNV_CFG/FNV_ACT,
CRC_CTRL/CRC_ACT_CTRL, SHA_CUR and MW_CFG (R40, R41, R43, R48, R49). -/

namespace Sys2Proof.Machine

open Sys2Proof

/-- The 4-bit code of a status (R105). -/
def Status.code : Status → BitVec 4
  | .ok => 0
  | .illegal => 1
  | .invalidArgument => 2
  | .unsupportedConfig => 3
  | .sequence => 4

/-- The sticky bit that a status sets: bit `c - 1` of STICKY, which is STATUS bit `7 + c` (R37, R38). -/
def Status.stickyBit : Status → BitVec 4
  | .ok => 0b0000
  | .illegal => 0b0001
  | .invalidArgument => 0b0010
  | .unsupportedConfig => 0b0100
  | .sequence => 0b1000

/-- IDLE 0, ACTIVE 1, as a two-bit STATUS field (R37). -/
def Phase.code : Phase → BitVec 2
  | .idle => 0
  | .active => 1

/-- READY 0, ACCUM 1, FINAL 2 (R37). -/
def ShaPhase.code : ShaPhase → BitVec 2
  | .ready => 0
  | .accum => 1
  | .final => 2

/-- The ORDER bit: big-endian 0, little-endian 1 (R40, R41, R43). -/
def orderBit : ByteOrder → BitVec 1
  | .big => 0
  | .little => 1

/-- The order that an ORDER bit selects. -/
def orderOf (b : Bool) : ByteOrder := if b then .little else .big

/-- The MIX bit: variant A 0, variant B 1 (R41). -/
def mixBit : Mixing → BitVec 1
  | .a => 0
  | .b => 1

/-- The variant that a MIX bit selects. -/
def mixOf (b : Bool) : Mixing := if b then .b else .a

/-- STATUS composed from LAST, STICKY, the phases and CRC_TVALID (R37): bits [3:0], [11:8], [17:16],
[19:18], [21:20] and [24]; every other bit is 0. -/
def statusWord (s : State) : Word64 :=
  0#39 ++ BitVec.ofBool s.crc.tvalid ++ 0#2 ++ s.sha.phase.code ++ s.crc.phase.code
    ++ s.fnv.phase.code ++ 0#4 ++ s.sticky ++ 0#4 ++ s.last.code

/-- The register form of CANON_CFG (R40). -/
def canonWord (o : ByteOrder) : Word64 := 0#63 ++ orderBit o

/-- CANON_ORDER from a written word (R40). -/
def canonOf (v : Word64) : ByteOrder := orderOf (v.getLsbD 0)

/-- The register form of FNV_CFG and FNV_ACT: WIDTH [2:0], MIX [4], ORDER [8] (R41). -/
def fnvCfgWord (c : FnvCfg) : Word64 :=
  0#55 ++ orderBit c.order ++ 0#3 ++ mixBit c.mix ++ 0#1 ++ c.width

/-- The fields of FNV_CFG from a written word (R41). -/
def fnvCfgOf (v : Word64) : FnvCfg :=
  { width := v.extractLsb' 0 3, mix := mixOf (v.getLsbD 4), order := orderOf (v.getLsbD 8) }

/-- The register form of CRC_CTRL and CRC_ACT_CTRL: WIDTH [6:0], REFIN [8], REFOUT [9], ORDER [12] (R43). -/
def crcCtrlWord (c : CrcCtrl) : Word64 :=
  0#51 ++ orderBit c.order ++ 0#2 ++ BitVec.ofBool c.refout ++ BitVec.ofBool c.refin ++ 0#1 ++ c.width

/-- The fields of CRC_CTRL from a written word (R43). -/
def crcCtrlOf (v : Word64) : CrcCtrl :=
  { width := v.extractLsb' 0 7
    refin := v.getLsbD 8
    refout := v.getLsbD 9
    order := orderOf (v.getLsbD 12) }

/-- MW_L from a written word (R49). -/
def mwLenOf (v : Word64) : BitVec 6 := v.extractLsb' 0 6

end Sys2Proof.Machine
end

