-- ==== Sys2Proof/Machine/Ops.lean ====
section
/-! DEFINITION. The named operations that the meanings share: ending a command with OK or with an error
(40_control.md R130, 60_exceptions.md R295), taking the next command from the port, reading and writing
registers by index (10_state.md R35, R36), the multi-word product (42_multiword.md R171) and the one-byte
feeds of the FNV and CRC units (43_fnv.md R192, R193; 44_crc.md R221, R222, R227). The SHA unit's
operations stand in Sha.lean. -/

namespace Sys2Proof.Machine

open Sys2Proof

/-! ### Ending a command -/

/-- The state after a command that ends with OK: LAST is OK, STICKY is kept, the response carries the
payload (R38, R130). -/
def State.completed (s : State) (p : Payload) : State :=
  { s with last := .ok, response := some { status := .ok, payload := p } }

/-- A command ends with OK (R130). -/
def State.complete (s : State) (p : Payload) : Host.Outcome State Fault Refusal :=
  .next (s.completed p)

/-- The state after a command that ends with the error `e`: LAST is `e`, its sticky bit is set, the
response carries no payload, and nothing else changes (R38, R295). -/
def State.raised (s : State) (e : Status) : State :=
  { s with
    last := e
    sticky := s.sticky ||| e.stickyBit
    response := some { status := e, payload := .none } }

/-- A command ends with the error `e`: THE ONE EXCEPTION of the machine (R295, R298). `s` is the state
before the command, but for the phase changes that R295 names. -/
def State.raise (s : State) (e : Status) : Host.Outcome State Fault Refusal :=
  .next (s.raised e)

/-- The next command at the port, and the state once the CORE has taken it; `none` while the host issues
none (R32, R100). -/
def State.takeCommand (s : State) : Option (Command × State) :=
  match s.pending with
  | [] => none
  | c :: rest => some (c, { s with pending := rest })

/-! ### Registers -/

/-- The value of a register, zero-extended to 64 bits (R35, R134). -/
def State.readReg (s : State) : Reg → Word64
  | .status => statusWord s
  | .canonCfg => canonWord s.canonOrder
  | .fnvCfg => fnvCfgWord s.fnv.cfg
  | .fnvAct => fnvCfgWord s.fnv.act
  | .crcCtrl => crcCtrlWord s.crc.ctrl
  | .crcPoly => s.crc.poly
  | .crcInit => s.crc.init
  | .crcXorout => s.crc.xorout
  | .crcReg => s.crc.reg
  | .crcActCtrl => crcCtrlWord s.crc.actCtrl
  | .crcActPoly => s.crc.actPoly
  | .crcActXorout => s.crc.actXorout
  | .shaLenLo => s.sha.lenLo
  | .shaLenHi => s.sha.lenHi
  | .shaCur => s.sha.cur.setWidth 64
  | .mwCfg => s.mw.len.setWidth 64

/-- A masked value stored into a register (R36). A read-only register keeps its value: WRREG refuses it
before this operation is reached (R135). -/
def State.writeReg (s : State) (r : Reg) (v : Word64) : State :=
  match r with
  | .canonCfg => { s with canonOrder := canonOf v }
  | .fnvCfg => { s with fnv := { s.fnv with cfg := fnvCfgOf v } }
  | .crcCtrl => { s with crc := { s.crc with ctrl := crcCtrlOf v } }
  | .crcPoly => { s with crc := { s.crc with poly := v } }
  | .crcInit => { s with crc := { s.crc with init := v } }
  | .crcXorout => { s with crc := { s.crc with xorout := v } }
  | .mwCfg => { s with mw := { s.mw with len := mwLenOf v } }
  | .status | .fnvAct | .crcReg | .crcActCtrl | .crcActPoly | .crcActXorout | .shaLenLo
  | .shaLenHi | .shaCur => s

/-! ### The multi-word product -/

/-- One row of the long multiplication: from position i on, `t = R[i+j] + A[i]*B[j] + carry`, the low 32
bits of `t` stay at position `i+j` and the high bits are the next carry; the carry that leaves the last
position is dropped (R171). -/
def mulRow (a : Word32) : List Word32 → List Word32 → Nat → List Word32
  | _, [], _ => []
  | [], r :: rs, _ => r :: rs
  | b :: bs, r :: rs, carry =>
    let t := r.toNat + a.toNat * b.toNat + carry
    BitVec.ofNat 32 (t % 2 ^ 32) :: mulRow a bs rs (t / 2 ^ 32)

/-- The rows of the long multiplication, one for each word of A. After row i, position i is final, and
the rest of R goes on to row i + 1 (R171). -/
def mulRows : List Word32 → List Word32 → List Word32 → List Word32
  | [], _, rs => rs
  | a :: as, bs, rs =>
    match mulRow a bs rs 0 with
    | [] => []
    | r :: rest => r :: mulRows as bs rest

/-- `MWMUL(A, B, L)` (R171): only the first L words of A and B are read, and the result has L words. -/
def mwMul (as bs : List Word32) (l : Nat) : List Word32 :=
  mulRows (as.take l) (bs.take l) (List.replicate l 0)

/-! ### The FNV unit -/

/-- `FNV_FEED1(b)` (R192): variant A XORs the byte in and multiplies, variant B multiplies and XORs the
byte in, modulo `2^W`. -/
def fnvFeed1 (u : FnvUnit) (b : Byte) : FnvUnit :=
  let p := fnvParams u.act.width
  match u.act.mix with
  | .a => { u with acc := keepLow p.width ((u.acc ^^^ b.setWidth 1024) * p.prime) }
  | .b => { u with acc := keepLow p.width (u.acc * p.prime) ^^^ b.setWidth 1024 }

/-- The datapath of R193 for `W > 64`: the same step on `L = W/32` words, with the XOR on word 0 and MWMUL
for the product. `fnvFeed1` is the model's; the two give one number (R193). -/
def fnvFeedWords (u : FnvUnit) (b : Byte) : FnvUnit :=
  let p := fnvParams u.act.width
  let l := p.width / 32
  let prime := expandWords p.prime l
  let xorByte : List Word32 → List Word32
    | [] => []
    | x :: xs => (x ^^^ b.setWidth 32) :: xs
  let acc := expandWords u.acc l
  match u.act.mix with
  | .a => { u with acc := wordsNumber (mwMul (xorByte acc) prime l) }
  | .b => { u with acc := wordsNumber (xorByte (mwMul acc prime l)) }

/-! ### The CRC unit -/

/-- The register widths CRC_START accepts (R43, R223). -/
def crcWidthLegal (w : BitVec 7) : Bool := crcWidths.contains w.toNat

/-- One step of the bit-serial division on a W-bit value (R221). -/
def crcBit (poly : Word64) (w : Nat) (r : Word64) : Word64 :=
  if r.getLsbD (w - 1) then keepLow w (r <<< 1) ^^^ poly else keepLow w (r <<< 1)

/-- Eight steps of the bit-serial division (R221). -/
def crcBits8 (poly : Word64) (w : Nat) (r : Word64) : Word64 :=
  Nat.repeat (crcBit poly w) 8 r

/-- `T[i]` of `CRC_TABLE(poly, W)` (R221). -/
def crcTableEntry (poly : Word64) (w i : Nat) : Word64 :=
  crcBits8 poly w (keepLow w (BitVec.ofNat 64 i <<< (w - 8)))

/-- `CRC_TABLE(poly, W)` (R221). -/
def crcTable (poly : Word64) (w : Nat) : Vector Word64 256 := tabulate 256 (crcTableEntry poly w)

/-- `CRC_FEED1(b)` (R222). -/
def crcFeed1 (u : CrcUnit) (b : Byte) : CrcUnit :=
  let w := u.actCtrl.width.toNat
  let b := if u.actCtrl.refin then reflect 8 b else b
  let top : Byte := (u.reg >>> (w - 8)).setWidth 8
  { u with reg := keepLow w (u.reg <<< 8) ^^^ u.table[(top ^^^ b).toNat]'(top ^^^ b).isLt }

/-- `CRC_FINAL(S)` (R227): reflection first, then the final XOR. -/
def crcFinal (u : CrcUnit) : Word64 :=
  (if u.actCtrl.refout then reflect u.actCtrl.width.toNat u.reg else u.reg) ^^^ u.actXorout

end Sys2Proof.Machine
end

