-- ==== Sys2Proof/Machine/Sha.lean ====
section
/-! DEFINITION. The truncated-512 unit (45_sha512_256.md): its logical functions (R253), schedule and
compression (R267, R268), length counter and buffer (R254, R255, R257), padding (R258), output (R259), and
its commands (R260 to R266). -/

namespace Sys2Proof.Machine

open Sys2Proof

/-! ### Logical functions (R253) -/

/-- `Ch(x, y, z)` (R253). -/
def shaCh (x y z : Word64) : Word64 := (x &&& y) ^^^ (~~~x &&& z)

/-- `Maj(x, y, z)` (R253). -/
def shaMaj (x y z : Word64) : Word64 := (x &&& y) ^^^ (x &&& z) ^^^ (y &&& z)

/-- `Sigma0` (R253). -/
def shaBigSigma0 (x : Word64) : Word64 := rotr x 28 ^^^ rotr x 34 ^^^ rotr x 39

/-- `Sigma1` (R253). -/
def shaBigSigma1 (x : Word64) : Word64 := rotr x 14 ^^^ rotr x 18 ^^^ rotr x 41

/-- `sigma0` (R253). -/
def shaSmallSigma0 (x : Word64) : Word64 := rotr x 1 ^^^ rotr x 8 ^^^ (x >>> 7)

/-- `sigma1` (R253). -/
def shaSmallSigma1 (x : Word64) : Word64 := rotr x 19 ^^^ rotr x 61 ^^^ (x >>> 6)

/-! ### Schedule and compression -/

/-- The number of a byte list, most significant byte first (R267). -/
def beNumber (bs : List Byte) : Word64 :=
  bs.foldl (fun v b => (v <<< 8) ||| b.setWidth 64) 0

/-- The message words `Wt[0..15]` of a block (R84, R267). -/
def messageWords (m : Vector Byte 128) : List Word64 :=
  (List.range 16).map fun t => beNumber ((m.toList.drop (8 * t)).take 8)

/-- The schedule extended by `n` words. The list holds the words so far, newest first, so that positions
1, 6, 14 and 15 are `Wt[t-2]`, `Wt[t-7]`, `Wt[t-15]` and `Wt[t-16]` (R267). -/
def extendSchedule : Nat → List Word64 → List Word64
  | 0, ws => ws
  | n + 1, ws =>
    extendSchedule n
      ((shaSmallSigma1 (ws.getD 1 0) + ws.getD 6 0 + shaSmallSigma0 (ws.getD 14 0) + ws.getD 15 0)
        :: ws)

/-- The message schedule `Wt[0..79]` of a block (R267). -/
def schedule (m : Vector Byte 128) : List Word64 :=
  (extendSchedule 64 (messageWords m).reverse).reverse

/-- The working variables a..h (R268). -/
structure ShaWork where
  a : Word64
  b : Word64
  c : Word64
  d : Word64
  e : Word64
  f : Word64
  g : Word64
  h : Word64
deriving DecidableEq, Repr

/-- One round with the constant `k` and the message word `w`; every assignment uses the values from before
the round (R268). -/
def shaRound (x : ShaWork) (k w : Word64) : ShaWork :=
  let t1 := x.h + shaBigSigma1 x.e + shaCh x.e x.f x.g + k + w
  let t2 := shaBigSigma0 x.a + shaMaj x.a x.b x.c
  { a := t1 + t2, b := x.a, c := x.b, d := x.c, e := x.d + t1, f := x.e, g := x.f, h := x.g }

/-- The rounds over a list of pairs of constant and message word (R268). -/
def shaRounds : List (Word64 × Word64) → ShaWork → ShaWork
  | [], x => x
  | (k, w) :: rest, x => shaRounds rest (shaRound x k w)

/-- `COMPRESS(H, M)` (R268). -/
def compress (h : Vector Word64 8) (m : Vector Byte 128) : Vector Word64 8 :=
  let x := shaRounds (shaK.zip (schedule m))
    { a := h[0], b := h[1], c := h[2], d := h[3], e := h[4], f := h[5], g := h[6], h := h[7] }
  #v[h[0] + x.a, h[1] + x.b, h[2] + x.c, h[3] + x.d, h[4] + x.e, h[5] + x.f, h[6] + x.g, h[7] + x.h]

/-! ### Length counter, buffer and padding -/

/-- `LEN_ADD(n)`: the low half takes the sum modulo `2^64`, the high half the carry (R254). -/
def lenAdd (u : ShaUnit) (n : Word64) : ShaUnit :=
  let sum := u.lenLo.toNat + n.toNat
  { u with
    lenLo := BitVec.ofNat 64 sum
    lenHi := if 2 ^ 64 ≤ sum then u.lenHi + 1 else u.lenHi }

/-- `SHA_PAD1(b)`: one byte into the buffer; a full block is compressed and the buffer cleared, so that
the cursor never holds 128 (R48, R257; log entry 7). -/
def shaPad1 (u : ShaUnit) (b : Byte) : ShaUnit :=
  let buf := u.buf.set u.cur.toNat b u.cur.isLt
  if u.cur.toNat + 1 = 128 then
    { u with h := compress u.h buf, buf := Vector.replicate 128 0, cur := 0 }
  else { u with buf := buf, cur := u.cur + 1 }

/-- `SHA_FEED1(b)`: one message byte, counted as 8 bits; the phase is ACCUM (R255). -/
def shaFeed1 (u : ShaUnit) (b : Byte) : ShaUnit :=
  { shaPad1 (lenAdd u 8) b with phase := .accum }

/-- `while SHA_CUR != 112: SHA_PAD1(0x00)`, at most `fuel` times (R258). -/
def shaPadZeros : Nat → ShaUnit → ShaUnit
  | 0, u => u
  | fuel + 1, u => if u.cur = 112 then u else shaPadZeros fuel (shaPad1 u 0x00)

/-- `SHA_PAD()`: 0x80, zeros up to 112 modulo 128, the length before padding as two big-endian words
(R258). 128 steps suffice for the zeros, since the cursor takes 128 values (log entry 7). -/
def shaPad (u : ShaUnit) : ShaUnit :=
  (beBytes 8 u.lenHi ++ beBytes 8 u.lenLo).foldl shaPad1 (shaPadZeros 128 (shaPad1 u 0x80))

/-- `SHA_OUT(H)` (R259). -/
def shaOut (h : Vector Word64 8) : List Byte :=
  beBytes 8 h[0] ++ beBytes 8 h[1] ++ beBytes 8 h[2] ++ beBytes 8 h[3]

/-! ### Commands -/

/-- The SHA unit right after initialization (R260, R261). -/
def shaFresh : ShaUnit :=
  { h := shaIv
    buf := Vector.replicate 128 0
    cur := 0
    lenLo := 0
    lenHi := 0
    phase := .ready }

/-- SHA_INIT (R260). -/
def execShaInit (s : State) : Host.Outcome State Fault Refusal :=
  State.complete { s with sha := shaFresh } .none

/-- SHA_BYTE byte (R262). -/
def execShaByte (b : Byte) (s : State) : Host.Outcome State Fault Refusal :=
  match s.sha.phase with
  | .final => s.raise .sequence
  | .ready | .accum => State.complete { s with sha := shaFeed1 s.sha b } .none

/-- SHA_FINAL (R264). -/
def execShaFinal (s : State) : Host.Outcome State Fault Refusal :=
  match s.sha.phase with
  | .final => s.raise .sequence
  | .ready | .accum => State.complete { s with sha := { shaPad s.sha with phase := .final } } .none

/-- SHA_DIGEST (R265). -/
def execShaDigest (s : State) : Host.Outcome State Fault Refusal :=
  match s.sha.phase with
  | .final => s.complete (.bytes (shaOut s.sha.h))
  | .ready | .accum => s.raise .sequence

/-- SHA_RDH idx (R266). -/
def execShaRdh (idx : Byte) (s : State) : Host.Outcome State Fault Refusal :=
  match shaIndex idx with
  | none => s.raise .invalidArgument
  | some k => s.complete (.value s.sha.h[k])

end Sys2Proof.Machine
end

