-- ==== Sys2Proof/Machine/Canonicalizer.lean ====
section
/-! DEFINITION. The canonicalizer's command EMIT (41_canonicalizer.md R152). -/

namespace Sys2Proof.Machine

open Sys2Proof

/-- Whether the destination of an EMIT accepts input (R152, R294). -/
def unitAccepts (s : State) : EmitUnit → Bool
  | .fnv => decide (s.fnv.phase = .active)
  | .crc => decide (s.crc.phase = .active)
  | .sha => decide (s.sha.phase ≠ .final)

/-- One byte fed to the destination (R152). -/
def feedUnit (u : EmitUnit) (s : State) (b : Byte) : State :=
  match u with
  | .fnv => { s with fnv := fnvFeed1 s.fnv b }
  | .crc => { s with crc := crcFeed1 s.crc b }
  | .sha => { s with sha := shaFeed1 s.sha b }

/-- EMIT unit, n, value (R152): UNIT, then SZ, then the phase is checked, all before any byte is fed. -/
def execEmit (unit sz : BitVec 4) (op : Word64) (s : State) : Host.Outcome State Fault Refusal :=
  match emitUnit unit with
  | none => s.raise .invalidArgument
  | some u =>
    match emitSize sz with
    | none => s.raise .invalidArgument
    | some n =>
      if unitAccepts s u then ((canonBytes op n s.canonOrder).foldl (feedUnit u) s).complete .none
      else s.raise .sequence

end Sys2Proof.Machine
end

