-- ==== Sys2Proof/Machine/Control.lean ====
section
/-! DEFINITION. The global commands (40_control.md): NOP, RESET, INFO, RDREG, WRREG. -/

namespace Sys2Proof.Machine

open Sys2Proof

/-- NOP (R131). -/
def execNop (s : State) : Host.Outcome State Fault Refusal := s.complete .none

/-- RESET (R132): every element of R34 takes its reset value; the commands still at the port stay
(log entry 3). -/
def execReset (s : State) : Host.Outcome State Fault Refusal :=
  State.complete { State.reset with pending := s.pending } .none

/-- INFO idx (R133). -/
def execInfo (idx : Byte) (s : State) : Host.Outcome State Fault Refusal :=
  match infoValue idx with
  | none => s.raise .invalidArgument
  | some v => s.complete (.value v)

/-- RDREG idx (R134). STATUS is read before this command's own update (R38). -/
def execRdreg (idx : Byte) (s : State) : Host.Outcome State Fault Refusal :=
  match regOf idx with
  | none => s.raise .invalidArgument
  | some r => s.complete (.value (s.readReg r))

/-- WRREG idx, value (R135): a reserved index, then a read-only one, is refused; otherwise the register
takes `OP AND mask` (R36), legal for the unit or not. -/
def execWrreg (idx : Byte) (op : Word64) (s : State) : Host.Outcome State Fault Refusal :=
  match regOf idx with
  | none => s.raise .invalidArgument
  | some r =>
    if regWritable r then (s.writeReg r (op &&& regMask r)).complete .none
    else s.raise .invalidArgument

end Sys2Proof.Machine
end

