-- ==== Sys2Proof/Machine/Crc.lean ====
section
/-! DEFINITION. The commands of the CRC unit (44_crc.md). -/

namespace Sys2Proof.Machine

open Sys2Proof

/-- The CRC unit after a successful CRC_START (R223): the configuration latched, modulo `2^W` where it is
wider, the table built, the register loaded with the initial value as stored. -/
def crcStarted (u : CrcUnit) : CrcUnit :=
  let w := u.ctrl.width.toNat
  { u with
    actCtrl := u.ctrl
    actPoly := keepLow w u.poly
    actXorout := keepLow w u.xorout
    table := crcTable (keepLow w u.poly) w
    tvalid := true
    reg := keepLow w u.init
    phase := .active }

/-- CRC_START (R223): an illegal width leaves the unit IDLE without a table (R295). -/
def execCrcStart (s : State) : Host.Outcome State Fault Refusal :=
  if crcWidthLegal s.crc.ctrl.width then State.complete { s with crc := crcStarted s.crc } .none
  else State.raise { s with crc := { s.crc with phase := .idle, tvalid := false } } .unsupportedConfig

/-- CRC_BYTE byte (R224). -/
def execCrcByte (b : Byte) (s : State) : Host.Outcome State Fault Refusal :=
  match s.crc.phase with
  | .idle => s.raise .sequence
  | .active => State.complete { s with crc := crcFeed1 s.crc b } .none

/-- The bytes that CRC_DIGEST returns: `ORDERED_{W/8}(CRC_FINAL(S), ORDER)` (R83, R225). -/
def crcDigest (u : CrcUnit) : List Byte :=
  orderedBytes (u.actCtrl.width.toNat / 8) (crcFinal u) u.actCtrl.order

/-- CRC_DIGEST (R225). -/
def execCrcDigest (s : State) : Host.Outcome State Fault Refusal :=
  match s.crc.phase with
  | .idle => s.raise .sequence
  | .active => s.complete (.bytes (crcDigest s.crc))

/-- CRC_RDTAB idx (R226): every index is legal. -/
def execCrcRdtab (idx : Byte) (s : State) : Host.Outcome State Fault Refusal :=
  if s.crc.tvalid then s.complete (.value (s.crc.table[idx.toNat]'idx.isLt))
  else s.raise .sequence

end Sys2Proof.Machine
end

