-- ==== Sys2Proof/Machine/Fnv.lean ====
section
/-! DEFINITION. The commands of the FNV unit (43_fnv.md). -/

namespace Sys2Proof.Machine

open Sys2Proof

/-- FNV_START (R194): an unsupported width code leaves the unit IDLE (R295); a supported one latches
FNV_CFG, loads the offset basis and makes the unit ACTIVE. -/
def execFnvStart (s : State) : Host.Outcome State Fault Refusal :=
  match fnvParams? s.fnv.cfg.width with
  | none => State.raise { s with fnv := { s.fnv with phase := .idle } } .unsupportedConfig
  | some p =>
    State.complete
      { s with fnv := { s.fnv with act := s.fnv.cfg, acc := p.offset, phase := .active } } .none

/-- FNV_BYTE byte (R195). -/
def execFnvByte (b : Byte) (s : State) : Host.Outcome State Fault Refusal :=
  match s.fnv.phase with
  | .idle => s.raise .sequence
  | .active => State.complete { s with fnv := fnvFeed1 s.fnv b } .none

/-- The bytes that FNV_DIGEST returns: `ORDERED_{W/8}(FNV_ACC[W-1:0], ORDER)` (R82, R196). -/
def fnvDigest (u : FnvUnit) : List Byte :=
  let w := (fnvParams u.act.width).width
  orderedBytes (w / 8) (u.acc.setWidth w) u.act.order

/-- FNV_DIGEST (R196). -/
def execFnvDigest (s : State) : Host.Outcome State Fault Refusal :=
  match s.fnv.phase with
  | .idle => s.raise .sequence
  | .active => s.complete (.bytes (fnvDigest s.fnv))

end Sys2Proof.Machine
end

