-- ==== Sys2Proof/Machine/Multiword.lean ====
section
/-! DEFINITION. The commands of the multi-word engine (42_multiword.md). -/

namespace Sys2Proof.Machine

open Sys2Proof

/-- MW_LDA idx, value (R172). -/
def execMwLda (idx : Byte) (op : Word64) (s : State) : Host.Outcome State Fault Refusal :=
  match wordIndex idx with
  | none => s.raise .invalidArgument
  | some k => State.complete { s with mw := { s.mw with a := s.mw.a.set k (operandWord op) } } .none

/-- MW_LDB idx, value (R173). -/
def execMwLdb (idx : Byte) (op : Word64) (s : State) : Host.Outcome State Fault Refusal :=
  match wordIndex idx with
  | none => s.raise .invalidArgument
  | some k => State.complete { s with mw := { s.mw with b := s.mw.b.set k (operandWord op) } } .none

/-- MW_A after the product: the words below L are the product's, the words from L on are kept (R174). -/
def mwProduct (u : MwUnit) : Vector Word32 32 :=
  let r := mwMul u.a.toList u.b.toList u.len.toNat
  tabulate 32 fun k => if k < u.len.toNat then r.getD k 0 else u.a.toList.getD k 0

/-- MW_MUL (R174). -/
def execMwMul (s : State) : Host.Outcome State Fault Refusal :=
  if s.mw.len.toNat < 1 ∨ 32 < s.mw.len.toNat then s.raise .unsupportedConfig
  else State.complete { s with mw := { s.mw with a := mwProduct s.mw } } .none

/-- MW_XORB byte (R175). -/
def execMwXorb (b : Byte) (s : State) : Host.Outcome State Fault Refusal :=
  State.complete { s with mw := { s.mw with a := s.mw.a.set 0 (s.mw.a[0] ^^^ b.setWidth 32) } } .none

/-- MW_RDA idx (R176). -/
def execMwRda (idx : Byte) (s : State) : Host.Outcome State Fault Refusal :=
  match wordIndex idx with
  | none => s.raise .invalidArgument
  | some k => s.complete (.value (s.mw.a[k].setWidth 64))

/-- MW_RDB idx (R177). -/
def execMwRdb (idx : Byte) (s : State) : Host.Outcome State Fault Refusal :=
  match wordIndex idx with
  | none => s.raise .invalidArgument
  | some k => s.complete (.value (s.mw.b[k].setWidth 64))

end Sys2Proof.Machine
end

