-- ==== Sys2Proof/Machine/Dispatch.lean ====
section
/-! DEFINITION. One arm for each command of the opcode table (30_encoding.md R106). -/

namespace Sys2Proof.Machine

open Sys2Proof

def exec (i : Instr) (s : State) : Host.Outcome State Fault Refusal :=
  match i with
  | .nop => Sys2Proof.Machine.execNop s
  | .reset => Sys2Proof.Machine.execReset s
  | .info idx => Sys2Proof.Machine.execInfo idx s
  | .rdreg idx => Sys2Proof.Machine.execRdreg idx s
  | .wrreg idx op => Sys2Proof.Machine.execWrreg idx op s
  | .emit unit sz op => Sys2Proof.Machine.execEmit unit sz op s
  | .fnvStart => Sys2Proof.Machine.execFnvStart s
  | .fnvByte b => Sys2Proof.Machine.execFnvByte b s
  | .fnvDigest => Sys2Proof.Machine.execFnvDigest s
  | .crcStart => Sys2Proof.Machine.execCrcStart s
  | .crcByte b => Sys2Proof.Machine.execCrcByte b s
  | .crcDigest => Sys2Proof.Machine.execCrcDigest s
  | .crcRdtab idx => Sys2Proof.Machine.execCrcRdtab idx s
  | .shaInit => Sys2Proof.Machine.execShaInit s
  | .shaByte b => Sys2Proof.Machine.execShaByte b s
  | .shaFinal => Sys2Proof.Machine.execShaFinal s
  | .shaDigest => Sys2Proof.Machine.execShaDigest s
  | .shaRdh idx => Sys2Proof.Machine.execShaRdh idx s
  | .mwLda idx op => Sys2Proof.Machine.execMwLda idx op s
  | .mwLdb idx op => Sys2Proof.Machine.execMwLdb idx op s
  | .mwMul => Sys2Proof.Machine.execMwMul s
  | .mwXorb b => Sys2Proof.Machine.execMwXorb b s
  | .mwRda idx => Sys2Proof.Machine.execMwRda idx s
  | .mwRdb idx => Sys2Proof.Machine.execMwRdb idx s

end Sys2Proof.Machine
end

