-- ==== Sys2Proof/Machine/Step.lean ====
section
/-! DEFINITION. The step of the CORE (40_control.md R130): one command taken from the port, decoded, and
executed or refused as ILLEGAL. -/

namespace Sys2Proof.Machine

open Sys2Proof

/-- One step (R130). With no command at the port the CORE does nothing (R32; log entry 2). A command word
that spells no command raises ILLEGAL (R107, R290). -/
def step (s : State) : Host.Outcome State Fault Refusal :=
  match s.takeCommand with
  | none => .next s
  | some (c, s') =>
    match decode c with
    | .error _ => s'.raise .illegal
    | .ok i => exec i s'

/-- `s` with the command of a table word as the next one at the port, in the place of the command that
stood next (log entries 1, 4). -/
def State.withFetchWord (s : State) (nbits w : Nat) : State :=
  { s with pending := tableCommand nbits w :: s.pending.tail }

end Sys2Proof.Machine
end

