-- ==== Sys2Proof/Machine/HostSide.lean ====
section
/-! DEFINITION. The host's side of the contract, as far as the spec describes it: the bit pattern of a typed
value (41_canonicalizer.md R151), sequences, strings and streams as commands (R155, R157, R158), and the
assembler with its pseudo-instructions (30_encoding.md R110, R111). The machine does not use this file:
the CORE sees only commands. -/

namespace Sys2Proof.Machine

open Sys2Proof

/-! ### Typed values (R151) -/

/-- An integer of `2^size` bytes, with its value. -/
inductive IntScalar where
  | unsigned (size : BitVec 2) (v : Nat)
  | signed (size : BitVec 2) (v : Int)
deriving DecidableEq, Repr

/-- The kinds of scalar of R151. Floats and characters are given by their bits. -/
inductive Scalar where
  | integer (i : IntScalar)
  | single (bits : Word32)
  | double (bits : Word64)
  | boolean (b : Bool)
  | character (unit : BitVec 16)
  | enumeration (underlying : IntScalar)
  | dateTime (d : Nat)
  | absence
deriving DecidableEq, Repr

/-- The pair `(v, n)` of an integer: its value modulo `2^(8n)`, two's complement when signed (R151). -/
def intBits (i : IntScalar) : ScalarBits :=
  match i with
  | .unsigned size v => { value := keepLow (8 * 2 ^ size.toNat) (BitVec.ofNat 64 v), size := size }
  | .signed size v => { value := keepLow (8 * 2 ^ size.toNat) (BitVec.ofInt 64 v), size := size }

/-- The pair `(v, n)` of a typed value (R151); date/time and absence are OPEN parameters (log entry 9). -/
def scalarBits (x : Scalar) : ScalarBits :=
  match x with
  | .integer i => intBits i
  | .single bits => { value := bits.setWidth 64, size := 2 }
  | .double bits => { value := bits, size := 3 }
  | .boolean b => { value := if b then 1 else 0, size := 0 }
  | .character unit => { value := unit.setWidth 64, size := 1 }
  | .enumeration i => intBits i
  | .dateTime d => Config.dateTimeLayout d
  | .absence => { value := Config.absenceByte.setWidth 64, size := 0 }

/-- The UNIT code of a destination (R101). -/
def emitUnitCode : EmitUnit → BitVec 4
  | .fnv => 0
  | .crc => 1
  | .sha => 2

/-- The EMIT of a typed value (R151, R152). -/
def emitScalar (u : EmitUnit) (x : Scalar) : Instr :=
  .emit (emitUnitCode u) ((scalarBits x).size.setWidth 4) (scalarBits x).value

/-- A typed sequence: one EMIT for each element, in iteration order (R155). -/
def emitSequence (u : EmitUnit) (xs : List Scalar) : List Instr := xs.map (emitScalar u)

/-- The byte command of a unit (R86). -/
def byteCommand (u : EmitUnit) (b : Byte) : Instr :=
  match u with
  | .fnv => .fnvByte b
  | .crc => .crcByte b
  | .sha => .shaByte b

/-- Bytes in order: a binary stream's content, or an encoded string (R157, R158). -/
def feedBytes (u : EmitUnit) (bs : List Byte) : List Instr := bs.map (byteCommand u)

/-- A text encoding, the parameter TEXT_ENCODING (R8, R157). -/
abbrev TextEncoding := List Char → List Byte

/-- The UTF-8 bytes of one code point. -/
def utf8Char (c : Char) : List Byte :=
  let n := c.toNat
  let byte (base shift size : Nat) : Byte := BitVec.ofNat 8 (base + n / 2 ^ shift % size)
  if n < 0x80 then [byte 0x00 0 0x80]
  else if n < 0x800 then [byte 0xC0 6 0x20, byte 0x80 0 0x40]
  else if n < 0x10000 then [byte 0xE0 12 0x10, byte 0x80 6 0x40, byte 0x80 0 0x40]
  else [byte 0xF0 18 0x08, byte 0x80 12 0x40, byte 0x80 6 0x40, byte 0x80 0 0x40]

/-- The default of TEXT_ENCODING, UTF-8 (R157, PRESUMED by the spec from general knowledge; log entry 10). -/
def utf8 : TextEncoding := fun cs => cs.flatMap utf8Char

/-- A string as byte commands, under a text encoding (R157). -/
def feedText (u : EmitUnit) (enc : TextEncoding) (cs : List Char) : List Instr :=
  feedBytes u (enc cs)

/-! ### Pseudo-instructions (R111) -/

/-- The pseudo-instructions of R111, with their operands as numbers. -/
inductive Pseudo where
  | fnvFeed (bs : List Byte)
  | crcFeed (bs : List Byte)
  | shaFeed (bs : List Byte)
  | emitSeq (u : EmitUnit) (sz : BitVec 4) (vs : List Word64)
  | canonSet (o : Word64)
  | fnvConfig (code : BitVec 3) (mix : Mixing) (order : ByteOrder)
  | fnv1a32
  | crcConfig (ctrl : CrcCtrl) (poly init xorout : Word64)
  | crc32Ieee
  | crc64Ecma182
  | mwLoadA (v : BitVec 1024) (l : Nat)
  | mwLoadB (v : BitVec 1024) (l : Nat)
  | shaHash (bs : List Byte)
deriving DecidableEq, Repr

/-- The four register writes of CRC_CONFIG (R111). -/
def crcConfigWrites (ctrl : CrcCtrl) (poly init xorout : Word64) : List Instr :=
  [.wrreg 0x20 (crcCtrlWord ctrl), .wrreg 0x21 poly, .wrreg 0x22 init, .wrreg 0x23 xorout]

/-- The expansion of a pseudo-instruction (R111). -/
def expandPseudo (p : Pseudo) : List Instr :=
  match p with
  | .fnvFeed bs => feedBytes .fnv bs
  | .crcFeed bs => feedBytes .crc bs
  | .shaFeed bs => feedBytes .sha bs
  | .emitSeq u sz vs => vs.map fun v => .emit (emitUnitCode u) sz v
  | .canonSet o => [.wrreg 0x01 o]
  | .fnvConfig code mix order =>
    [.wrreg 0x10 (fnvCfgWord { width := code, mix := mix, order := order })]
  | .fnv1a32 => [.wrreg 0x10 (fnvCfgWord { width := 0, mix := .a, order := .big }), .fnvStart]
  | .crcConfig ctrl poly init xorout => crcConfigWrites ctrl poly init xorout
  | .crc32Ieee =>
    crcConfigWrites { width := 32, refin := true, refout := true, order := .big }
      0x04C11DB7 0xFFFFFFFF 0xFFFFFFFF
  | .crc64Ecma182 =>
    crcConfigWrites { width := 64, refin := false, refout := false, order := .big }
      0x42F0E1EBA9EA3693 0 0
  | .mwLoadA v l =>
    (List.range l).map fun k => .mwLda (BitVec.ofNat 8 k) ((wordOf v k).setWidth 64)
  | .mwLoadB v l =>
    (List.range l).map fun k => .mwLdb (BitVec.ofNat 8 k) ((wordOf v k).setWidth 64)
  | .shaHash bs => [.shaInit] ++ feedBytes .sha bs ++ [.shaFinal, .shaDigest]

/-! ### The assembler (R110) -/

/-- The mnemonic of an opcode, as R106 spells it. -/
def mnemonicText : Opcode → String
  | .nop => "NOP"
  | .reset => "RESET"
  | .info => "INFO"
  | .rdreg => "RDREG"
  | .wrreg => "WRREG"
  | .emit => "EMIT"
  | .fnvStart => "FNV_START"
  | .fnvByte => "FNV_BYTE"
  | .fnvDigest => "FNV_DIGEST"
  | .crcStart => "CRC_START"
  | .crcByte => "CRC_BYTE"
  | .crcDigest => "CRC_DIGEST"
  | .crcRdtab => "CRC_RDTAB"
  | .shaInit => "SHA_INIT"
  | .shaByte => "SHA_BYTE"
  | .shaFinal => "SHA_FINAL"
  | .shaDigest => "SHA_DIGEST"
  | .shaRdh => "SHA_RDH"
  | .mwLda => "MW_LDA"
  | .mwLdb => "MW_LDB"
  | .mwMul => "MW_MUL"
  | .mwXorb => "MW_XORB"
  | .mwRda => "MW_RDA"
  | .mwRdb => "MW_RDB"

/-- The 24 opcodes in the order of R106. -/
def allOpcodes : List Opcode :=
  [.nop, .reset, .info, .rdreg, .wrreg, .emit, .fnvStart, .fnvByte, .fnvDigest, .crcStart, .crcByte,
   .crcDigest, .crcRdtab, .shaInit, .shaByte, .shaFinal, .shaDigest, .shaRdh, .mwLda, .mwLdb, .mwMul,
   .mwXorb, .mwRda, .mwRdb]

/-- The names by which a register index may be written, with the indices of R35 (R110). -/
def registerNames : List (String × Byte) :=
  [("STATUS", 0x00), ("CANON_CFG", 0x01), ("FNV_CFG", 0x10), ("FNV_ACT", 0x11), ("CRC_CTRL", 0x20),
   ("CRC_POLY", 0x21), ("CRC_INIT", 0x22), ("CRC_XOROUT", 0x23), ("CRC_REG", 0x24),
   ("CRC_ACT_CTRL", 0x25), ("CRC_ACT_POLY", 0x26), ("CRC_ACT_XOROUT", 0x27), ("SHA_LEN_LO", 0x30),
   ("SHA_LEN_HI", 0x31), ("SHA_CUR", 0x32), ("MW_CFG", 0x40)]

/-- An operand of an assembler line: a word (a number or a name), or a quoted string. -/
inductive AsmOperand where
  | word (w : List Char)
  | quoted (q : List Char)
deriving DecidableEq, Repr

/-- A token of an assembler line. -/
inductive AsmToken where
  | operand (o : AsmOperand)
  | comma
deriving DecidableEq, Repr

/-- The word read so far, as a token. -/
def flushWord (cur : List Char) : List AsmToken :=
  if cur.isEmpty then [] else [.operand (.word cur)]

/-- The tokens of a line: words and commas; `;` starts a comment; a quoted string ends at the next quote
and `none` marks one that has no end. `quoted` says whether the reader stands inside quotes (R110). R110 gives
no quote character and no escape. That `"` alone quotes, that there is no escape, that `;`, `,` and blanks
inside quotes are content, that a space or a tab separates, and the refusal of an open string are the model's
DESIGN CHOICE (log entry 17). -/
def lexLine (quoted : Bool) (cur : List Char) : List Char → Option (List AsmToken)
  | [] => if quoted then none else some (flushWord cur)
  | c :: cs =>
    if quoted then
      if c = '"' then (lexLine false [] cs).map (.operand (.quoted cur) :: ·)
      else lexLine true (cur ++ [c]) cs
    else if c = ';' then some (flushWord cur)
    else if c = '"' then (lexLine true [] cs).map (flushWord cur ++ ·)
    else if c = ',' then (lexLine false [] cs).map (flushWord cur ++ .comma :: ·)
    else if c = ' ' ∨ c = '\t' then (lexLine false [] cs).map (flushWord cur ++ ·)
    else lexLine false (cur ++ [c]) cs

/-- Operands separated by commas (R110). -/
def asmOperands : List AsmToken → Option (List AsmOperand)
  | [] => some []
  | [.operand o] => some [o]
  | .operand o :: .comma :: rest =>
    match asmOperands rest with
    | some (p :: ps) => some (o :: p :: ps)
    | _ => none
  | _ => none

/-- The value of a hexadecimal digit, in either case (DESIGN CHOICE, log entry 17). -/
def digitValue (c : Char) : Option Nat :=
  if '0' ≤ c ∧ c ≤ '9' then some (c.toNat - '0'.toNat)
  else if 'a' ≤ c ∧ c ≤ 'f' then some (c.toNat - 'a'.toNat + 10)
  else if 'A' ≤ c ∧ c ≤ 'F' then some (c.toNat - 'A'.toNat + 10)
  else none

/-- The number that digits of a base spell after `acc`. -/
def digitsValue (base : Nat) : List Char → Nat → Option Nat
  | [], acc => some acc
  | c :: cs, acc =>
    match digitValue c with
    | some d => if d < base then digitsValue base cs (acc * base + d) else none
    | none => none

/-- A number, decimal or after `0x` hexadecimal (R110); no sign, leading zeros accepted (DESIGN CHOICE, log
entry 17). -/
def numberOf (w : List Char) : Option Nat :=
  match w with
  | [] => none
  | ['0', 'x'] => none
  | '0' :: 'x' :: ds => digitsValue 16 ds 0
  | ds => digitsValue 10 ds 0

/-- An operand that is a number below `bound`; a larger one is refused (DESIGN CHOICE, log entry 17). -/
def operandNumber (bound : Nat) (o : AsmOperand) : Option Nat :=
  match o with
  | .word w => (numberOf w).filter (· < bound)
  | .quoted _ => none

/-- An index: a number from 0 to 255, or the name of a register (R110). R110 lets a register index be written
by its name and gives no names for the other indices; that a name of R35 stands for its number in the index of
every format I and W command (INFO, CRC_RDTAB, SHA_RDH and the MW commands too, not only RDREG and WRREG) is
the model's DESIGN CHOICE (log entry 17). -/
def operandIndex (o : AsmOperand) : Option Byte :=
  match o with
  | .word w =>
    match registerNames.find? (fun p => p.1.toList == w) with
    | some p => some p.2
    | none => (operandNumber 256 o).map (BitVec.ofNat 8)
  | .quoted _ => none

/-- The bytes of an operand: a number below 256 is one byte, a quoted string its ASCII bytes (R110; a
character that is not ASCII is refused, DESIGN CHOICE, log entry 17). -/
def operandBytes (o : AsmOperand) : Option (List Byte) :=
  match o with
  | .word _ => (operandNumber 256 o).map fun n => [BitVec.ofNat 8 n]
  | .quoted q => if q.all (·.toNat < 128) then some (q.map fun c => BitVec.ofNat 8 c.toNat) else none

/-- `fnv`, `crc` or `sha` (R110). -/
def operandUnit (o : AsmOperand) : Option EmitUnit :=
  if o = .word "fnv".toList then some .fnv
  else if o = .word "crc".toList then some .crc
  else if o = .word "sha".toList then some .sha
  else none

/-- The byte count of an EMIT, 1, 2, 4 or 8, as the size code `log2 n` (R110). -/
def operandSize (o : AsmOperand) : Option (BitVec 4) :=
  match operandNumber 9 o with
  | some 1 => some 0
  | some 2 => some 1
  | some 4 => some 2
  | some 8 => some 3
  | _ => none

/-- The command of an opcode and its operands, by the "encodes" column of R110. -/
def assembleCommand (o : Opcode) (args : List AsmOperand) : Option Command :=
  match o.format, args with
  | .n, [] => some { cw := o.matchWord, op := 0 }
  | .b, [b] =>
    (operandNumber 256 b).map fun n => { cw := o.matchWord ||| BitVec.ofNat 32 n, op := 0 }
  | .i, [i] =>
    (operandIndex i).map fun k =>
      { cw := o.matchWord ||| (BitVec.setWidth 32 k <<< 8), op := 0 }
  | .w, [i, v] =>
    match operandIndex i, operandNumber (2 ^ 64) v with
    | some k, some n =>
      some { cw := o.matchWord ||| (BitVec.setWidth 32 k <<< 8), op := BitVec.ofNat 64 n }
    | _, _ => none
  | .e, [u, n, v] =>
    match operandUnit u, operandSize n, operandNumber (2 ^ 64) v with
    | some unit, some sz, some n =>
      some
        { cw := o.matchWord ||| ((emitUnitCode unit).setWidth 32 <<< 20) ||| (sz.setWidth 32 <<< 16)
          op := BitVec.ofNat 64 n }
    | _, _, _ => none
  | _, _ => none

/-- The width code of an FNV width in bits (R41, R111). -/
def fnvWidthCode (o : AsmOperand) : Option (BitVec 3) :=
  match operandNumber 1025 o with
  | some 32 => some 0
  | some 64 => some 1
  | some 128 => some 2
  | some 256 => some 3
  | some 512 => some 4
  | some 1024 => some 5
  | _ => none

/-- `A` or `B` (R111). -/
def operandMix (o : AsmOperand) : Option Mixing :=
  if o = .word "A".toList then some .a else if o = .word "B".toList then some .b else none

/-- `BE` or `LE` (R111). -/
def operandOrder (o : AsmOperand) : Option ByteOrder :=
  if o = .word "BE".toList then some .big else if o = .word "LE".toList then some .little else none

/-- The operands of CRC_CONFIG, each in the range of its field (R111; log entry 17). -/
def crcConfigOperands (args : List AsmOperand) : Option Pseudo :=
  match args with
  | [w, poly, init, xorout, refin, refout, order] => do
    let w ← operandNumber 128 w
    let poly ← operandNumber (2 ^ 64) poly
    let init ← operandNumber (2 ^ 64) init
    let xorout ← operandNumber (2 ^ 64) xorout
    let refin ← operandNumber 2 refin
    let refout ← operandNumber 2 refout
    let order ← operandOrder order
    some (.crcConfig
      { width := BitVec.ofNat 7 w, refin := refin == 1, refout := refout == 1, order := order }
      (BitVec.ofNat 64 poly) (BitVec.ofNat 64 init) (BitVec.ofNat 64 xorout))
  | _ => none

/-- The number and word count of MW_LOADA and MW_LOADB, from 0 to 32 words (R111; DESIGN CHOICE, log
entry 17). -/
def mwLoadOperands (args : List AsmOperand) : Option (BitVec 1024 × Nat) :=
  match args with
  | [v, l] => do
    let v ← operandNumber (2 ^ 1024) v
    let l ← operandNumber 33 l
    some (BitVec.ofNat 1024 v, l)
  | _ => none

/-- The bytes of a feed's operands, in order (R111; numbers and quoted strings alike, DESIGN CHOICE, log
entry 17). -/
def feedOperands (args : List AsmOperand) : Option (List Byte) :=
  (args.mapM operandBytes).map List.flatten

/-- A pseudo-instruction by its name and operands (R111). R111 writes the values of EMIT_SEQ as `v1, ..., vk`
and gives no least `k`; that EMIT_SEQ with no value is accepted, and stands for no command, is the model's
DESIGN CHOICE (log entry 17). -/
def assemblePseudo (name : List Char) (args : List AsmOperand) : Option Pseudo :=
  if name = "FNV_FEED".toList then (feedOperands args).map .fnvFeed
  else if name = "CRC_FEED".toList then (feedOperands args).map .crcFeed
  else if name = "SHA_FEED".toList then (feedOperands args).map .shaFeed
  else if name = "EMIT_SEQ".toList then
    match args with
    | u :: n :: vs => do
      let u ← operandUnit u
      let sz ← operandSize n
      let vs ← vs.mapM (operandNumber (2 ^ 64))
      some (.emitSeq u sz (vs.map (BitVec.ofNat 64)))
    | _ => none
  else if name = "CANON_SET".toList then
    match args with
    | [o] => (operandNumber (2 ^ 64) o).map fun n => .canonSet (BitVec.ofNat 64 n)
    | _ => none
  else if name = "FNV_CONFIG".toList then
    match args with
    | [w, mix, order] => do
      let code ← fnvWidthCode w
      let mix ← operandMix mix
      let order ← operandOrder order
      some (.fnvConfig code mix order)
    | _ => none
  else if name = "FNV1A_32".toList then if args.isEmpty then some .fnv1a32 else none
  else if name = "CRC_CONFIG".toList then crcConfigOperands args
  else if name = "CRC32_IEEE".toList then if args.isEmpty then some .crc32Ieee else none
  else if name = "CRC64_ECMA182".toList then if args.isEmpty then some .crc64Ecma182 else none
  else if name = "MW_LOADA".toList then (mwLoadOperands args).map fun p => .mwLoadA p.1 p.2
  else if name = "MW_LOADB".toList then (mwLoadOperands args).map fun p => .mwLoadB p.1 p.2
  else if name = "SHA_HASH".toList then (feedOperands args).map .shaHash
  else none

/-- The commands that one assembler line stands for: none for an empty line or a comment (DESIGN CHOICE, log
entry 17), one for a command, several for a pseudo-instruction; `none` where the line is not of R110's or R111's syntax. -/
def assembleLine (line : List Char) : Option (List Command) :=
  match lexLine false [] line with
  | none => none
  | some [] => some []
  | some (.operand (.word name) :: rest) =>
    match asmOperands rest with
    | none => none
    | some args =>
      match allOpcodes.find? (fun o => (mnemonicText o).toList == name) with
      | some o => (assembleCommand o args).map fun c => [c]
      | none => (assemblePseudo name args).map fun p => (expandPseudo p).map encode
  | some _ => none

end Sys2Proof.Machine
end

