-- ==== Sys2Proof/Safety.lean ====
section
/-! DEFINITION. What counts as a safe state and an error-free run: the invariant of the CORE's units (10_state.md
R38, R45, R46, R48, R50, R52, R55, R57; 30_encoding.md R105), and R297's "no error since reset". -/

namespace Sys2Proof.Machine

open Sys2Proof

/-- While FNV is ACTIVE, the latched width code is one of the six supported, and FNV_ACC has no bit above
`W - 1` (R42, R50, R194). -/
def fnvInv (u : FnvUnit) : Prop :=
  u.phase = .active → u.act.width.toNat ≤ 5 ∧ u.acc.toNat < 2 ^ (fnvParams u.act.width).width

/-- CRC is ACTIVE exactly while CRC_TVALID holds; then the latched width is legal, the latched values and
CRC_REG have no bit above `W - 1`, and CRC_T is the table of the latched polynomial (R45, R46, R52,
R223). -/
def crcInv (u : CrcUnit) : Prop :=
  (u.phase = .active ↔ u.tvalid = true) ∧
  (u.tvalid = true →
    crcWidthLegal u.actCtrl.width = true ∧
    u.actPoly.toNat < 2 ^ u.actCtrl.width.toNat ∧
    u.actXorout.toNat < 2 ^ u.actCtrl.width.toNat ∧
    u.reg.toNat < 2 ^ u.actCtrl.width.toNat ∧
    u.table = crcTable u.actPoly u.actCtrl.width.toNat)

/-- READY is the initialized unit; in ACCUM the cursor is the number of message bytes modulo 128; in FINAL
the buffer is empty; the length counts whole bytes; the buffer is zero at the cursor and above (R48,
R55 to R57, R255, R258). -/
def shaInv (u : ShaUnit) : Prop :=
  (u.phase = .ready → u = shaFresh) ∧
  (u.phase = .accum → u.cur.toNat = u.lenLo.toNat / 8 % 128) ∧
  (u.phase = .final → u.cur = 0) ∧
  u.lenLo.toNat % 8 = 0 ∧
  ∀ (k : Nat) (h : k < 128), u.cur.toNat ≤ k → u.buf[k] = 0

/-- The last error is recorded in STICKY (R38). -/
def stickyInv (s : State) : Prop :=
  s.last ≠ .ok → s.sticky &&& s.last.stickyBit = s.last.stickyBit

/-- The last response carries the status that LAST holds, and no payload with an error (R38, R105). -/
def responseInv (s : State) : Prop :=
  ∀ r, s.response = some r → r.status = s.last ∧ (r.status ≠ .ok → r.payload = .none)

/-- The invariant that reset establishes and every step keeps. -/
def stateInv (s : State) : Prop :=
  fnvInv s.fnv ∧ crcInv s.crc ∧ shaInv s.sha ∧ stickyInv s ∧ responseInv s

/-- "No error since reset": STATUS[11:8] = 0 (R297). -/
def errorFree (s : State) : Bool := s.sticky == 0

end Sys2Proof.Machine
end

