-- ==== Sys2Proof/Certificates/Slice0/Obligations.lean ====
section
/-! DEFINITION. The statements about the CORE, for the provers, after the vocabulary they use (namespace
Claims): the spec's own tables and formulas, written on numbers and independent of the machine's
definitions. -/

namespace Sys2Proof.Claims

open Sys2Proof Sys2Proof.Machine

/-! ### Vocabulary -/

/-- What a step or a command answers. -/
abbrev Answer := Host.Outcome State Fault Refusal

/-- The state after a command that succeeds: LAST and the response, nothing else (R38, R105). -/
def okAfter (s : State) (p : Payload) : State :=
  { s with last := .ok, response := some { status := .ok, payload := p } }

/-- STICKY with the bit of status code c set, which is bit c - 1 (R37, R38). -/
def stickyMask : Status → BitVec 4
  | .ok => 0
  | .illegal => 1
  | .invalidArgument => 2
  | .unsupportedConfig => 4
  | .sequence => 8

/-- The state after a command that fails with `e`: LAST, its sticky bit and the response, nothing else
(R295). -/
def errorAfter (s : State) (e : Status) : State :=
  { s with
    last := e
    sticky := s.sticky ||| stickyMask e
    response := some { status := e, payload := .none } }

/-- Commands executed in order, each on the state that the one before it left. -/
def runAll : List Instr → State → Answer
  | [], s => .next s
  | i :: rest, s =>
    match exec i s with
    | .next t => runAll rest t
    | .fault f => .fault f
    | .refused r => .refused r

/-- R106's table: opcode, CW match, CW mask. -/
def opcodeRows : List (Opcode × Word32 × Word32) :=
  [(.nop, 0x00000000, 0xFFFFFFFF), (.reset, 0x01000000, 0xFFFFFFFF), (.info, 0x02000000, 0xFFFF00FF),
   (.rdreg, 0x03000000, 0xFFFF00FF), (.wrreg, 0x04000000, 0xFFFF00FF), (.emit, 0x08000000, 0xFF00FFFF),
   (.fnvStart, 0x10000000, 0xFFFFFFFF), (.fnvByte, 0x11000000, 0xFFFFFF00),
   (.fnvDigest, 0x12000000, 0xFFFFFFFF), (.crcStart, 0x20000000, 0xFFFFFFFF),
   (.crcByte, 0x21000000, 0xFFFFFF00), (.crcDigest, 0x22000000, 0xFFFFFFFF),
   (.crcRdtab, 0x23000000, 0xFFFF00FF), (.shaInit, 0x30000000, 0xFFFFFFFF),
   (.shaByte, 0x31000000, 0xFFFFFF00), (.shaFinal, 0x32000000, 0xFFFFFFFF),
   (.shaDigest, 0x33000000, 0xFFFFFFFF), (.shaRdh, 0x34000000, 0xFFFF00FF),
   (.mwLda, 0x40000000, 0xFFFF00FF), (.mwLdb, 0x41000000, 0xFFFF00FF), (.mwMul, 0x42000000, 0xFFFFFFFF),
   (.mwXorb, 0x43000000, 0xFFFFFF00), (.mwRda, 0x44000000, 0xFFFF00FF), (.mwRdb, 0x45000000, 0xFFFF00FF)]

/-- The reserved OPC values of R108. -/
def reservedOpc (n : Nat) : Prop :=
  (0x05 ≤ n ∧ n ≤ 0x07) ∨ (0x09 ≤ n ∧ n ≤ 0x0F) ∨ (0x13 ≤ n ∧ n ≤ 0x1F) ∨ (0x24 ≤ n ∧ n ≤ 0x2F) ∨
  (0x35 ≤ n ∧ n ≤ 0x3F) ∨ (0x46 ≤ n ∧ n ≤ 0xFF)

/-- The reserved register indices of R35. -/
def reservedIndex (n : Nat) : Prop :=
  (0x02 ≤ n ∧ n ≤ 0x0F) ∨ (0x12 ≤ n ∧ n ≤ 0x1F) ∨ (0x28 ≤ n ∧ n ≤ 0x2F) ∨ (0x33 ≤ n ∧ n ≤ 0x3F) ∨
  (0x41 ≤ n ∧ n ≤ 0xFF)

/-- The status codes of R105. -/
def statusCode : Status → Nat
  | .ok => 0
  | .illegal => 1
  | .invalidArgument => 2
  | .unsupportedConfig => 3
  | .sequence => 4

def phaseCode : Phase → Nat
  | .idle => 0
  | .active => 1

def shaPhaseCode : ShaPhase → Nat
  | .ready => 0
  | .accum => 1
  | .final => 2

def orderCode : ByteOrder → Nat
  | .big => 0
  | .little => 1

def mixCode : Mixing → Nat
  | .a => 0
  | .b => 1

/-- STATUS as R37's table places its fields. -/
def statusNumber (s : State) : Nat :=
  statusCode s.last + 2 ^ 8 * s.sticky.toNat + 2 ^ 16 * phaseCode s.fnv.phase
    + 2 ^ 18 * phaseCode s.crc.phase + 2 ^ 20 * shaPhaseCode s.sha.phase + 2 ^ 24 * s.crc.tvalid.toNat

/-- FNV_CFG and FNV_ACT as R41's table places their fields. -/
def fnvCfgNumber (c : FnvCfg) : Nat := c.width.toNat + 2 ^ 4 * mixCode c.mix + 2 ^ 8 * orderCode c.order

/-- CRC_CTRL and CRC_ACT_CTRL as R43's table places their fields. -/
def crcCtrlNumber (c : CrcCtrl) : Nat :=
  c.width.toNat + 2 ^ 8 * c.refin.toNat + 2 ^ 9 * c.refout.toNat + 2 ^ 12 * orderCode c.order

/-- The value of the register that an index names (R35 to R49); `none` for a reserved index. -/
def registerNumber (s : State) (idx : Nat) : Option Nat :=
  match idx with
  | 0x00 => some (statusNumber s)
  | 0x01 => some (orderCode s.canonOrder)
  | 0x10 => some (fnvCfgNumber s.fnv.cfg)
  | 0x11 => some (fnvCfgNumber s.fnv.act)
  | 0x20 => some (crcCtrlNumber s.crc.ctrl)
  | 0x21 => some s.crc.poly.toNat
  | 0x22 => some s.crc.init.toNat
  | 0x23 => some s.crc.xorout.toNat
  | 0x24 => some s.crc.reg.toNat
  | 0x25 => some (crcCtrlNumber s.crc.actCtrl)
  | 0x26 => some s.crc.actPoly.toNat
  | 0x27 => some s.crc.actXorout.toNat
  | 0x30 => some s.sha.lenLo.toNat
  | 0x31 => some s.sha.lenHi.toNat
  | 0x32 => some s.sha.cur.toNat
  | 0x40 => some s.mw.len.toNat
  | _ => none

/-- The mask of a read/write register (R35); `none` for a reserved or read-only index. -/
def writeMask (idx : Nat) : Option Word64 :=
  match idx with
  | 0x01 => some 0x1
  | 0x10 => some 0x117
  | 0x20 => some 0x137F
  | 0x21 => some 0xFFFFFFFFFFFFFFFF
  | 0x22 => some 0xFFFFFFFFFFFFFFFF
  | 0x23 => some 0xFFFFFFFFFFFFFFFF
  | 0x40 => some 0x3F
  | _ => none

/-- The first `n` bytes of a number: most significant first, or least significant first (R11). -/
def numberBytes (n x : Nat) : ByteOrder → List Byte
  | .big => (List.range n).map fun k => BitVec.ofNat 8 (x / 256 ^ (n - 1 - k))
  | .little => (List.range n).map fun k => BitVec.ofNat 8 (x / 256 ^ k)

/-- UNIT of a destination (R101). -/
def unitCode : EmitUnit → BitVec 4
  | .fnv => 0
  | .crc => 1
  | .sha => 2

/-- The byte command of a destination. -/
def oneByte : EmitUnit → Byte → Instr
  | .fnv, b => .fnvByte b
  | .crc, b => .crcByte b
  | .sha, b => .shaByte b

/-- The number a byte spells with its bits in the opposite order (`reflect_8`, R10). -/
def reversedByte (b : Byte) : Nat :=
  (List.range 8).foldl (fun v i => v + if b.getLsbD (7 - i) then 2 ^ i else 0) 0

/-- One FNV mixing step on numbers (R192). -/
def fnvMix (mix : Mixing) (w prime acc : Nat) (b : Byte) : Nat :=
  match mix with
  | .a => (acc ^^^ b.toNat) * prime % 2 ^ w
  | .b => (acc * prime % 2 ^ w) ^^^ b.toNat

/-- The exponents `a` and the bytes `c` of the primes `2^a + 2^8 + c` of R191, with the widths. -/
def fnvPrimeForms : List (Nat × Nat × Nat) :=
  [(32, 24, 0x93), (64, 40, 0xB3), (128, 88, 0x3B), (256, 168, 0x63), (512, 344, 0x57), (1024, 680, 0x8D)]

/-- The 32 ASCII bytes `chongo <Landon Curt Noll> /\../\` of R191. -/
def chongo : List Byte :=
  [0x63, 0x68, 0x6F, 0x6E, 0x67, 0x6F, 0x20, 0x3C, 0x4C, 0x61, 0x6E, 0x64, 0x6F, 0x6E, 0x20, 0x43,
   0x75, 0x72, 0x74, 0x20, 0x4E, 0x6F, 0x6C, 0x6C, 0x3E, 0x20, 0x2F, 0x5C, 0x2E, 0x2E, 0x2F, 0x5C]

/-- The legal CRC widths (R43). -/
def legalCrcWidth (w : Nat) : Prop := w ∈ [8, 16, 24, 32, 40, 48, 56, 64]

/-- One step of the long division of R221 on numbers. -/
def divisionStep (poly w r : Nat) : Nat :=
  if r.testBit (w - 1) then (r * 2 % 2 ^ w) ^^^ poly else r * 2 % 2 ^ w

/-- Eight steps of the long division of R221. -/
def divideByte (poly w r : Nat) : Nat := Nat.repeat (divisionStep poly w) 8 r

/-- The byte that CRC combines with its register: reflected when REFIN is set (R222). -/
def crcInput (refin : Bool) (b : Byte) : Nat := if refin then reversedByte b else b.toNat

/-- `val(X, L)` of R179 for the words of a list. -/
def wordsValue : List Word32 → Nat
  | [] => 0
  | x :: xs => x.toNat + 2 ^ 32 * wordsValue xs

/-- A block of 128 bytes read from a list. -/
def blockOf (l : List Byte) : Vector Byte 128 := Vector.ofFn fun k : Fin 128 => l.getD k 0

/-- The zero bytes that padding adds after 0x80 when the cursor was `c` (R258). -/
def zeroCount (c : Nat) : Nat := if c ≤ 111 then 111 - c else 239 - c

/-- The state words after the blocks that a list of whole blocks holds (R268). -/
def compressBlocks (h : Vector Word64 8) (l : List Byte) : Vector Word64 8 :=
  (List.range (l.length / 128)).foldl (fun h j => compress h (blockOf (l.drop (128 * j)))) h

/-- A message with its padding (R258): 0x80, zeros, and its length in bits as 16 big-endian bytes. -/
def paddedMessage (m : List Byte) : List Byte :=
  m ++ [0x80] ++ List.replicate (zeroCount (m.length % 128)) 0
    ++ numberBytes 16 (8 * m.length % 2 ^ 128) .big

/-- `ROTR_64` (R10). -/
def rotate (x : Word64) (k : Nat) : Word64 := x.rotateRight k

/-- The word of a schedule at an index. -/
def wordAt (l : List Word64) (t : Nat) : Word64 := l.getD t 0

/-- The working variables a..h after `t` rounds of R268 on a block's schedule `w`. -/
def workAfter (h : Vector Word64 8) (w : List Word64) : Nat → Vector Word64 8
  | 0 => h
  | t + 1 =>
    let v := workAfter h w t
    let sigma1 := rotate v[4] 14 ^^^ rotate v[4] 18 ^^^ rotate v[4] 41
    let ch := (v[4] &&& v[5]) ^^^ (~~~v[4] &&& v[6])
    let t1 := v[7] + sigma1 + ch + wordAt shaK t + wordAt w t
    let sigma0 := rotate v[0] 28 ^^^ rotate v[0] 34 ^^^ rotate v[0] 39
    let maj := (v[0] &&& v[1]) ^^^ (v[0] &&& v[2]) ^^^ (v[1] &&& v[2])
    #v[t1 + (sigma0 + maj), v[0], v[1], v[2], v[3] + t1, v[4], v[5], v[6]]

/-- The first 80 primes, from 2 to 409 (R252). -/
def firstPrimes : List Nat :=
  [2, 3, 5, 7, 11, 13, 17, 19, 23, 29, 31, 37, 41, 43, 47, 53, 59, 61, 67, 71,
   73, 79, 83, 89, 97, 101, 103, 107, 109, 113, 127, 131, 137, 139, 149, 151, 157, 163, 167, 173,
   179, 181, 191, 193, 197, 199, 211, 223, 227, 229, 233, 239, 241, 251, 257, 263, 269, 271, 277, 281,
   283, 293, 307, 311, 313, 317, 331, 337, 347, 349, 353, 359, 367, 373, 379, 383, 389, 397, 401, 409]

/-- The commands that only read (R90). -/
def readCommand : Instr → Prop
  | .rdreg _ | .info _ | .crcRdtab _ | .shaRdh _ | .mwRda _ | .mwRdb _ => True
  | .fnvDigest | .crcDigest | .shaDigest => True
  | .nop | .reset | .wrreg _ _ | .emit _ _ _ | .fnvStart | .fnvByte _ | .crcStart | .crcByte _
  | .shaInit | .shaByte _ | .shaFinal | .mwLda _ _ | .mwLdb _ _ | .mwMul | .mwXorb _ => False

/-- The commands of a running computation that use a latched configuration (R334). -/
def runningCommand : Instr → Prop
  | .fnvByte _ | .fnvDigest | .crcByte _ | .crcDigest | .crcRdtab _ | .emit _ _ _ => True
  | .nop | .reset | .info _ | .rdreg _ | .wrreg _ _ | .fnvStart | .crcStart | .shaInit | .shaByte _
  | .shaFinal | .shaDigest | .shaRdh _ | .mwLda _ _ | .mwLdb _ _ | .mwMul | .mwXorb _ | .mwRda _
  | .mwRdb _ => False

/-- A state with other values in FNV_CFG, CRC_CTRL, CRC_POLY, CRC_INIT and CRC_XOROUT. -/
def reconfigured (s : State) (c : FnvCfg) (k : CrcCtrl) (poly init xorout : Word64) : State :=
  { s with
    fnv := { s.fnv with cfg := c }
    crc := { s.crc with ctrl := k, poly := poly, init := init, xorout := xorout } }

/-- R291's complete list of INVALID_ARGUMENT causes. -/
def outOfRange : Instr → Prop
  | .info idx => 5 ≤ idx.toNat
  | .rdreg idx => reservedIndex idx.toNat
  | .wrreg idx _ =>
    reservedIndex idx.toNat ∨
      idx.toNat ∈ [0x00, 0x11, 0x24, 0x25, 0x26, 0x27, 0x30, 0x31, 0x32]
  | .emit unit sz _ => 3 ≤ unit.toNat ∨ 4 ≤ sz.toNat
  | .shaRdh idx => 8 ≤ idx.toNat
  | .mwLda idx _ | .mwLdb idx _ | .mwRda idx | .mwRdb idx => 32 ≤ idx.toNat
  | .nop | .reset | .fnvStart | .fnvByte _ | .fnvDigest | .crcStart | .crcByte _ | .crcDigest
  | .crcRdtab _ | .shaInit | .shaByte _ | .shaFinal | .shaDigest | .mwMul | .mwXorb _ => False

/-- R292's list of UNSUPPORTED_CONFIG causes. -/
def unsupported (s : State) : Instr → Prop
  | .fnvStart => 6 ≤ s.fnv.cfg.width.toNat
  | .crcStart => ¬ legalCrcWidth s.crc.ctrl.width.toNat
  | .mwMul => s.mw.len.toNat = 0 ∨ 32 < s.mw.len.toNat
  | .nop | .reset | .info _ | .rdreg _ | .wrreg _ _ | .emit _ _ _ | .fnvByte _ | .fnvDigest
  | .crcByte _ | .crcDigest | .crcRdtab _ | .shaInit | .shaByte _ | .shaFinal | .shaDigest
  | .shaRdh _ | .mwLda _ _ | .mwLdb _ _ | .mwXorb _ | .mwRda _ | .mwRdb _ => False

/-- R294's complete list of SEQUENCE causes. -/
def wrongPhase (s : State) : Instr → Prop
  | .fnvByte _ | .fnvDigest => s.fnv.phase = .idle
  | .crcByte _ | .crcDigest => s.crc.phase = .idle
  | .crcRdtab _ => s.crc.tvalid = false
  | .shaByte _ | .shaFinal => s.sha.phase = .final
  | .shaDigest => s.sha.phase ≠ .final
  | .emit unit _ _ =>
    (unit.toNat = 0 ∧ s.fnv.phase = .idle) ∨ (unit.toNat = 1 ∧ s.crc.phase = .idle) ∨
      (unit.toNat = 2 ∧ s.sha.phase = .final)
  | .nop | .reset | .info _ | .rdreg _ | .wrreg _ _ | .fnvStart | .crcStart | .shaInit | .shaRdh _
  | .mwLda _ _ | .mwLdb _ _ | .mwMul | .mwXorb _ | .mwRda _ | .mwRdb _ => False

end Sys2Proof.Claims

open Sys2Proof Sys2Proof.Machine Sys2Proof.Claims

/-! ### Encoding -/

/-- DECODE AND ENCODE AGREE (R102, R106, R107, R110): every command, with every operand its fields admit,
is decoded from the words that spell it. -/
def Obligations.EncodedCommandsDecode : Prop :=
  ∀ i : Instr, decode (encode i) = .ok i

/-- A word that decodes is the word its instruction encodes to, so no bit of CW is dropped, and in formats
W and E no bit of OP (R102, R103, R104). -/
def Obligations.DecodedCommandsEncodeBack : Prop :=
  ∀ (c : Command) (i : Instr), decode c = .ok i →
    encodeWord i = c.cw ∧ (i.opcode.format = .w ∨ i.opcode.format = .e → encodeOperand i = c.op)

/-- R106: a command word decodes to the row whose `(CW AND mask) = match`, at most one row matches, and a
word that no row matches is no command (R107). -/
def Obligations.DecodeFollowsTheOpcodeTable : Prop :=
  ∀ c : Command,
    (∀ r ∈ opcodeRows, c.cw &&& r.2.2 = r.2.1 →
      (∃ i, decode c = .ok i ∧ i.opcode = r.1) ∧
      ∀ q ∈ opcodeRows, c.cw &&& q.2.2 = q.2.1 → q = r) ∧
    ((∀ r ∈ opcodeRows, c.cw &&& r.2.2 ≠ r.2.1) → ∃ e, decode c = .error e)

/-- R112: the worked encodings, and the two words that are ILLEGAL. -/
def Obligations.WorkedEncodings : Prop :=
  encode (.fnvByte 0x68) = { cw := 0x11000068, op := 0 } ∧
  encode (.crcRdtab 255) = { cw := 0x2300FF00, op := 0 } ∧
  encode (.wrreg 0x21 0x42F0E1EBA9EA3693) = { cw := 0x04002100, op := 0x42F0E1EBA9EA3693 } ∧
  encode (.emit 2 1 0x6162) = { cw := 0x08210000, op := 0x6162 } ∧
  encode (.shaRdh 3) = { cw := 0x34000300, op := 0 } ∧
  (∀ op s rest, s.pending = { cw := 0x11000168, op := op } :: rest →
    step s = .next (errorAfter { s with pending := rest } .illegal)) ∧
  (∀ op s rest, s.pending = { cw := 0x05000000, op := op } :: rest →
    step s = .next (errorAfter { s with pending := rest } .illegal))

/-! ### The step -/

/-- A step takes the next command from the port, and if it decodes to an instruction, executes it on the
state without that command (R130). -/
def Obligations.StepRunsTheDecodedCommand : Prop :=
  ∀ (s : State) (c : Command) (rest : List Command) (i : Instr),
    s.pending = c :: rest → decode c = .ok i → step s = exec i { s with pending := rest }

/-- The MODEL's choice, log entry 2: with no command at the port a step changes nothing (R32 says that the
CORE takes no step on its own). -/
def Obligations.StepWaitsForACommand : Prop :=
  ∀ s : State, s.pending = [] → step s = .next s

/-- R103, R108: a command word with a reserved opcode, or with a defined opcode and a must-be-zero field
that is not zero, raises ILLEGAL: only LAST, the sticky bit and the response change. -/
def Obligations.UndecodableCommandsAreIllegal : Prop :=
  ∀ (s : State) (c : Command) (rest : List Command), s.pending = c :: rest →
    (reservedOpc (c.cw.toNat / 2 ^ 24) ∨
      ∃ r ∈ opcodeRows, c.cw.toNat / 2 ^ 24 = r.2.1.toNat / 2 ^ 24 ∧ c.cw &&& r.2.2 ≠ r.2.1) →
    step s = .next (errorAfter { s with pending := rest } .illegal)

/-- R130: the step is total and never stuck. Every command gets exactly one response, whose status LAST
then holds, with no payload unless the status is OK (R105). -/
def Obligations.EveryCommandIsAnswered : Prop :=
  ∀ (s : State) (c : Command) (rest : List Command), s.pending = c :: rest →
    ∃ t r, step s = .next t ∧ t.pending = rest ∧ t.response = some r ∧ r.status = t.last ∧
      (r.status ≠ .ok → r.payload = .none)

/-- R295: a failing command changes LAST, its sticky bit and the response, and only a failed FNV_START or
CRC_START changes a phase (and CRC_TVALID) as well. -/
def Obligations.ErrorsChangeOnlyTheRecord : Prop :=
  ∀ (s t : State) (c : Command) (rest : List Command), s.pending = c :: rest → step s = .next t →
    t.last ≠ .ok →
    t = errorAfter
      { s with
        pending := rest
        fnv := { s.fnv with phase := if decode c = .ok .fnvStart then .idle else s.fnv.phase }
        crc :=
          { s.crc with
            phase := if decode c = .ok .crcStart then .idle else s.crc.phase
            tvalid := if decode c = .ok .crcStart then false else s.crc.tvalid } }
      t.last

/-- R38: after every command, decoded or not, LAST holds the status of the response; a failing command sets
its sticky bit and no other; only RESET clears STICKY; and a read of STATUS reports it as it stood before
that read. -/
def Obligations.LastAndStickyAreRecorded : Prop :=
  (∀ (s t : State) (c : Command) (rest : List Command), s.pending = c :: rest → step s = .next t →
    (∃ p, t.response = some { status := t.last, payload := p }) ∧
    t.sticky = if decode c = .ok .reset then 0 else s.sticky ||| stickyMask t.last) ∧
  ∀ s : State, exec (.rdreg 0x00) s = .next (okAfter s (.value (BitVec.ofNat 64 (statusNumber s))))

/-! ### Statuses -/

/-- R291: a decoded command returns INVALID_ARGUMENT exactly for the causes of the list, and then records
LAST = 2 and ST_INVARG = 1. -/
def Obligations.InvalidArgumentCauses : Prop :=
  ∀ (i : Instr) (s t : State), exec i s = .next t →
    (t.last = .invalidArgument ↔ outOfRange i) ∧
    (outOfRange i → statusCode t.last = 2 ∧ (statusNumber t).testBit 9 = true)

/-- R292: a decoded command returns UNSUPPORTED_CONFIG exactly for the causes of the list, and then records
LAST = 3 and ST_UNSUP = 1. -/
def Obligations.UnsupportedConfigCauses : Prop :=
  ∀ (i : Instr) (s t : State), exec i s = .next t →
    (t.last = .unsupportedConfig ↔ unsupported s i) ∧
    (unsupported s i → statusCode t.last = 3 ∧ (statusNumber t).testBit 10 = true)

/-- R294, with R296's order for an EMIT that is also out of range: a decoded command returns SEQUENCE
exactly for the causes of the list, and then records LAST = 4 and ST_SEQ = 1. -/
def Obligations.SequenceCauses : Prop :=
  ∀ (i : Instr) (s t : State), exec i s = .next t →
    (t.last = .sequence ↔ wrongPhase s i ∧ ¬ outOfRange i) ∧
    (wrongPhase s i → ¬ outOfRange i → statusCode t.last = 4 ∧ (statusNumber t).testBit 11 = true)

/-- The check of Instr.wellFormed is the complement of R291's list. -/
def Obligations.WellFormedMeansInRange : Prop :=
  ∀ i : Instr, i.wellFormed = true ↔ ¬ outOfRange i

/-! ### Global commands -/

/-- NOP (R131): only LAST and the response change. -/
def Obligations.NopChangesNothing : Prop :=
  ∀ s : State, exec .nop s = .next (okAfter s .none)

/-- RESET (R132) puts every element of R34 into its reset state; what stands at the port stays (the port is
the MODEL's own field, log entry 3). -/
def Obligations.ResetRestoresTheResetState : Prop :=
  ∀ s : State, exec .reset s = .next (okAfter { State.reset with pending := s.pending } .none)

/-- R320: the reset state, element by element, with the values that the spec gives; and the RESET command
puts every element of R34 into the same state as power-on (beside them State has only the port's two
fields, log entries 1 and 3). -/
def Obligations.ResetStateValues : Prop :=
  let s := State.reset
  registerNumber s 0x00 = some 0 ∧ s.last = .ok ∧ s.sticky = 0 ∧ s.fnv.phase = .idle ∧
  s.crc.phase = .idle ∧ s.sha.phase = .ready ∧ s.crc.tvalid = false ∧
  registerNumber s 0x01 = some 0 ∧ registerNumber s 0x10 = some 0 ∧ registerNumber s 0x11 = some 0 ∧
  s.fnv.acc = 0 ∧
  registerNumber s 0x20 = some 0x320 ∧ registerNumber s 0x21 = some 0x04C11DB7 ∧
  registerNumber s 0x22 = some 0xFFFFFFFF ∧ registerNumber s 0x23 = some 0xFFFFFFFF ∧
  registerNumber s 0x24 = some 0 ∧ registerNumber s 0x25 = some 0 ∧ registerNumber s 0x26 = some 0 ∧
  registerNumber s 0x27 = some 0 ∧ (∀ (k : Nat) (h : k < 256), s.crc.table[k] = 0) ∧
  s.sha.h.toList =
    [0x22312194FC2BF72C, 0x9F555FA3C84C64C2, 0x2393B86B6F53B151, 0x963877195940EABD,
     0x96283EE2A88EFFE3, 0xBE5E1E2553863992, 0x2B0199FC2C85B8AA, 0x0EB72DDC81C52CA2] ∧
  (∀ (k : Nat) (h : k < 128), s.sha.buf[k] = 0) ∧
  registerNumber s 0x30 = some 0 ∧ registerNumber s 0x31 = some 0 ∧ registerNumber s 0x32 = some 0 ∧
  registerNumber s 0x40 = some 4 ∧ (∀ (k : Nat) (h : k < 32), s.mw.a[k] = 0 ∧ s.mw.b[k] = 0) ∧
  ∀ u : State, ∃ t, exec .reset u = .next t ∧ { t with pending := [], response := none } = State.reset

/-- INFO (R133): the constants for the selectors 0 to 4, INVALID_ARGUMENT from 5 on. -/
def Obligations.InfoReturnsTheConstants : Prop :=
  ∀ (idx : Byte) (s : State),
    exec (.info idx) s =
      if idx = 0 then .next (okAfter s (.value 80))
      else if idx = 1 then .next (okAfter s (.value 256))
      else if idx = 2 then .next (okAfter s (.value 32))
      else if idx = 3 then .next (okAfter s (.value 128))
      else if idx = 4 then .next (okAfter s (.value 0x3F))
      else .next (errorAfter s .invalidArgument)

/-- RDREG (R134): every defined index returns its register, with the fields where R37, R41 and R43 place
them; every other index is INVALID_ARGUMENT. -/
def Obligations.RdregReturnsTheRegister : Prop :=
  ∀ (idx : Byte) (s : State),
    exec (.rdreg idx) s =
      match registerNumber s idx.toNat with
      | some v => .next (okAfter s (.value (BitVec.ofNat 64 v)))
      | none => .next (errorAfter s .invalidArgument)

/-- R37: the STATUS word. A read returns it with LAST, STICKY, the phases and CRC_TVALID in their places,
and the sticky bit of a failing command of code c is bit 7 + c. -/
def Obligations.StatusIsComposedFromTheState : Prop :=
  (∀ s : State, exec (.rdreg 0x00) s = .next (okAfter s (.value (BitVec.ofNat 64 (statusNumber s))))) ∧
  (∀ s : State, statusNumber s < 2 ^ 25) ∧
  ∀ (i : Instr) (s t : State), exec i s = .next t → t.last ≠ .ok →
    (statusNumber t).testBit (7 + statusCode t.last) = true

/-- WRREG (R36): a read/write register takes `OP AND mask` and reads back as that; every other register
but STATUS reads as before, and so does all other state: no field value is checked. -/
def Obligations.WrregStoresUnderTheMask : Prop :=
  ∀ (idx : Byte) (op : Word64) (s : State) (m : Word64), writeMask idx.toNat = some m →
    ∃ t, exec (.wrreg idx op) s = .next (okAfter t .none) ∧
      registerNumber t idx.toNat = some (op &&& m).toNat ∧
      (∀ j : Nat, j ≠ idx.toNat → registerNumber t j = registerNumber s j) ∧
      t.last = s.last ∧ t.sticky = s.sticky ∧ t.fnv.act = s.fnv.act ∧ t.fnv.phase = s.fnv.phase ∧
      t.fnv.acc = s.fnv.acc ∧ t.crc.actCtrl = s.crc.actCtrl ∧ t.crc.table = s.crc.table ∧
      t.crc.tvalid = s.crc.tvalid ∧ t.crc.phase = s.crc.phase ∧ t.sha = s.sha ∧
      t.mw.a = s.mw.a ∧ t.mw.b = s.mw.b ∧ t.pending = s.pending

/-- R35, R135: RDREG and WRREG of a reserved index, and WRREG of a read-only one, are INVALID_ARGUMENT and
write nothing. -/
def Obligations.ReservedAndReadOnlyRegistersAreRefused : Prop :=
  ∀ (idx : Byte) (op : Word64) (s : State),
    (reservedIndex idx.toNat → exec (.rdreg idx) s = .next (errorAfter s .invalidArgument)) ∧
    (writeMask idx.toNat = none → exec (.wrreg idx op) s = .next (errorAfter s .invalidArgument))

/-! ### The canonicalizer -/

/-- R153 and R154: one byte is the same in both orders, and the two orders are each other's reversal. -/
def Obligations.CanonicalOrders : Prop :=
  (∀ (v : Word64) (o : ByteOrder), canonBytes v 1 o = [v.setWidth 8]) ∧
  ∀ (v : Word64) (n : Nat), n ∈ [1, 2, 4, 8] →
    canonBytes v n .little = numberBytes n v.toNat .little ∧
    canonBytes v n .big = numberBytes n v.toNat .big ∧
    canonBytes v n .little = (canonBytes v n .big).reverse

/-- R86, R197, R228, R263: an EMIT in range to a unit that accepts input feeds it the ordered bytes of OP,
one by one, changing that unit alone; and it has the effect of the n byte commands that carry the same
bytes in the same order, whether the unit accepts them or refuses them. -/
def Obligations.EmitEqualsItsByteCommands : Prop :=
  ∀ (sz : BitVec 4) (op : Word64) (s : State), sz.toNat ≤ 3 →
    let bytes := numberBytes (2 ^ sz.toNat) op.toNat s.canonOrder
    (s.fnv.phase = .active →
      exec (.emit 0 sz op) s = .next (okAfter { s with fnv := bytes.foldl fnvFeed1 s.fnv } .none)) ∧
    (s.crc.phase = .active →
      exec (.emit 1 sz op) s = .next (okAfter { s with crc := bytes.foldl crcFeed1 s.crc } .none)) ∧
    (s.sha.phase ≠ .final →
      exec (.emit 2 sz op) s = .next (okAfter { s with sha := bytes.foldl shaFeed1 s.sha } .none)) ∧
    ∀ u : EmitUnit, exec (.emit (unitCode u) sz op) s = runAll (bytes.map (oneByte u)) s

/-- R155: a typed sequence reaches its unit as the concatenation of the canonical bytes of its elements, in
iteration order. The elements' layouts are the host's (R151); date/time and absence stay open. -/
def Obligations.SequencesFeedTheConcatenation : Prop :=
  ∀ (u : EmitUnit) (xs : List Scalar) (s : State),
    runAll (emitSequence u xs) s =
      runAll ((xs.flatMap fun x =>
        numberBytes (2 ^ (scalarBits x).size.toNat) (scalarBits x).value.toNat s.canonOrder).map
          (oneByte u)) s

/-! ### FNV -/

/-- R191: the prime of each width has the form `2^a + 2^8 + c` of the table, and each offset basis is the
FNV-0 hash of the 32 bytes that the rule names, which fixes the 1024-bit basis too (log entry 13). -/
def Obligations.FnvConstantsAreTheStandardOnes : Prop :=
  ∀ code : BitVec 3,
    match fnvPrimeForms[code.toNat]? with
    | some (w, a, c) =>
      ∃ p, fnvParams? code = some p ∧ p.width = w ∧ p.prime.toNat = 2 ^ a + 2 ^ 8 + c ∧
        p.offset.toNat = chongo.foldl (fun acc b => fnvMix .b w (2 ^ a + 2 ^ 8 + c) acc b) 0
    | none => fnvParams? code = none

/-- FNV_START (R194): with a supported width the configuration is latched, the offset basis loaded and the
unit ACTIVE; with a reserved width code the unit is left IDLE and nothing else of it changes. -/
def Obligations.FnvStartLatchesTheConfiguration : Prop :=
  ∀ s : State,
    exec .fnvStart s =
      match fnvParams? s.fnv.cfg.width with
      | some p =>
        .next (okAfter
          { s with fnv := { cfg := s.fnv.cfg, act := s.fnv.cfg, phase := .active, acc := p.offset } } .none)
      | none => .next (errorAfter { s with fnv := { s.fnv with phase := .idle } } .unsupportedConfig)

/-- FNV_BYTE (R192, R195): one mixing step on the number, modulo `2^W`, under the latched configuration. -/
def Obligations.FnvByteMixesTheByte : Prop :=
  ∀ (b : Byte) (s : State) (p : FnvParams), s.fnv.phase = .active →
    fnvParams? s.fnv.act.width = some p →
    exec (.fnvByte b) s =
      .next (okAfter
        { s with
          fnv :=
            { s.fnv with
              acc := BitVec.ofNat 1024 (fnvMix s.fnv.act.mix p.width p.prime.toNat s.fnv.acc.toNat b) } }
        .none)

/-- R193: the word datapath (XOR on word 0, then MWMUL by the expanded prime, or the reverse) gives exactly
the number of R192, at every supported width. -/
def Obligations.FnvWordDatapathAgrees : Prop :=
  ∀ (u : FnvUnit) (b : Byte) (p : FnvParams), fnvParams? u.act.width = some p →
    u.acc.toNat < 2 ^ p.width → fnvFeedWords u b = fnvFeed1 u b

/-- FNV_DIGEST (R82, R196): exactly `W/8` bytes of the accumulator, least significant first for ORDER = 1,
most significant first for ORDER = 0; only LAST and the response change. -/
def Obligations.FnvDigestReturnsTheAccumulator : Prop :=
  ∀ (s : State) (p : FnvParams), s.fnv.phase = .active → fnvParams? s.fnv.act.width = some p →
    exec .fnvDigest s =
      .next (okAfter s (.bytes (numberBytes (p.width / 8) s.fnv.acc.toNat s.fnv.act.order)))

/-- R198, for the empty message, and R190: FNV_START, any bytes, FNV_DIGEST return the offset basis mixed with
the bytes in order, as `W/8` bytes in the configured order. -/
def Obligations.FnvHashesTheMessage : Prop :=
  ∀ (m : List Byte) (s : State) (p : FnvParams), fnvParams? s.fnv.cfg.width = some p →
    ∃ t, runAll ([.fnvStart] ++ m.map .fnvByte ++ [.fnvDigest]) s = .next t ∧
      t.response = some
        { status := .ok
          payload := .bytes (numberBytes (p.width / 8)
            (m.foldl (fnvMix s.fnv.cfg.mix p.width p.prime.toNat) p.offset.toNat) s.fnv.cfg.order) }

/-- R199: for one configuration and one message, the digest with ORDER = 1 is the byte reversal of the digest
with ORDER = 0. -/
def Obligations.FnvDigestOrdersAreReversals : Prop :=
  ∀ (m : List Byte) (s : State), s.fnv.cfg.width.toNat ≤ 5 →
    let run := fun o : ByteOrder =>
      runAll ([.fnvStart] ++ m.map .fnvByte ++ [.fnvDigest])
        { s with fnv := { s.fnv with cfg := { s.fnv.cfg with order := o } } }
    ∃ t₀ t₁ digest, run .big = .next t₀ ∧ run .little = .next t₁ ∧
      t₀.response = some { status := .ok, payload := .bytes digest } ∧
      t₁.response = some { status := .ok, payload := .bytes digest.reverse }

/-! ### CRC -/

/-- R221 and R223: with a legal width, CRC_START latches the configuration modulo `2^W`, loads the initial
value as stored, and builds the table by the long division; T[0] is 0 and T[1] the polynomial. -/
def Obligations.CrcStartBuildsTheTable : Prop :=
  ∀ s : State, legalCrcWidth s.crc.ctrl.width.toNat →
    let w := s.crc.ctrl.width.toNat
    ∃ table : Vector Word64 256,
      exec .crcStart s =
        .next (okAfter
          { s with
            crc :=
              { s.crc with
                actCtrl := s.crc.ctrl
                actPoly := BitVec.ofNat 64 (s.crc.poly.toNat % 2 ^ w)
                actXorout := BitVec.ofNat 64 (s.crc.xorout.toNat % 2 ^ w)
                table := table
                tvalid := true
                reg := BitVec.ofNat 64 (s.crc.init.toNat % 2 ^ w)
                phase := .active } } .none) ∧
      (∀ (i : Nat) (h : i < 256),
        table[i].toNat = divideByte (s.crc.poly.toNat % 2 ^ w) w (i * 2 ^ (w - 8) % 2 ^ w)) ∧
      table[0] = 0 ∧ table[1].toNat = s.crc.poly.toNat % 2 ^ w

/-- R223, R295: with any other width CRC_START fails, the unit is left IDLE and its table invalid. -/
def Obligations.CrcStartRefusesOtherWidths : Prop :=
  ∀ s : State, ¬ legalCrcWidth s.crc.ctrl.width.toNat →
    exec .crcStart s =
      .next (errorAfter { s with crc := { s.crc with phase := .idle, tvalid := false } } .unsupportedConfig)

/-- R222: CRC_BYTE combines the (reflected) byte with the high byte of the register, looks up the table entry
and combines it with the shifted register. -/
def Obligations.CrcByteLooksUpTheTable : Prop :=
  ∀ (b : Byte) (s : State), s.crc.phase = .active → legalCrcWidth s.crc.actCtrl.width.toNat →
    let w := s.crc.actCtrl.width.toNat
    let top := s.crc.reg.toNat / 2 ^ (w - 8) % 256
    let entry := s.crc.table.toList.getD (top ^^^ crcInput s.crc.actCtrl.refin b) 0
    exec (.crcByte b) s =
      .next (okAfter
        { s with
          crc :=
            { s.crc with
              reg := BitVec.ofNat 64 ((s.crc.reg.toNat * 2 ^ 8 % 2 ^ w) ^^^ entry.toNat) } } .none)

/-- The table lookup is the long division: in every state of the invariant, CRC_BYTE leaves in CRC_REG the
remainder that eight division steps give for the register with the byte added to its high byte
(R221, R222: "reproduce the standard CRC algorithm for the configured width"). -/
def Obligations.CrcByteIsLongDivision : Prop :=
  ∀ (b : Byte) (s : State), crcInv s.crc → s.crc.phase = .active →
    let w := s.crc.actCtrl.width.toNat
    exec (.crcByte b) s =
      .next (okAfter
        { s with
          crc :=
            { s.crc with
              reg := BitVec.ofNat 64 (divideByte s.crc.actPoly.toNat w
                (s.crc.reg.toNat ^^^ crcInput s.crc.actCtrl.refin b * 2 ^ (w - 8))) } } .none)

/-- CRC_DIGEST (R83, R225, R227): the register, reflected when REFOUT is set, then XORed with the final mask,
as `W/8` bytes in the latched order; only LAST and the response change. -/
def Obligations.CrcDigestFinalizesACopy : Prop :=
  ∀ s : State, crcInv s.crc → s.crc.phase = .active →
    let w := s.crc.actCtrl.width.toNat
    ∃ f : Word64,
      (∀ i : Nat, f.getLsbD i =
        ((decide (i < w) && s.crc.reg.getLsbD (if s.crc.actCtrl.refout then w - 1 - i else i))
          ^^ s.crc.actXorout.getLsbD i)) ∧
      exec .crcDigest s =
        .next (okAfter s (.bytes (numberBytes (w / 8) f.toNat s.crc.actCtrl.order)))

/-- CRC_RDTAB (R226): with a valid table every index returns its entry; without one the command is refused. -/
def Obligations.CrcRdtabReadsTheTable : Prop :=
  ∀ (idx : Byte) (s : State),
    exec (.crcRdtab idx) s =
      if s.crc.tvalid then .next (okAfter s (.value (s.crc.table.toList.getD idx.toNat 0)))
      else .next (errorAfter s .sequence)

/-- R231: CRC_T and CRC_TVALID change only at CRC_START or at reset, whatever the command and whether it
decodes, so a read of any entry returns the same before and after every other command. -/
def Obligations.CrcTableIsStable : Prop :=
  ∀ (s t : State) (c : Command) (rest : List Command), s.pending = c :: rest → step s = .next t →
    decode c ≠ .ok .crcStart → decode c ≠ .ok .reset →
    t.crc.table = s.crc.table ∧ t.crc.tvalid = s.crc.tvalid ∧
    ∀ idx : Byte, ∃ a b r, exec (.crcRdtab idx) s = .next a ∧ exec (.crcRdtab idx) t = .next b ∧
      a.response = some r ∧ b.response = some r

/-! ### SHA -/

/-- SHA_INIT (R260): in every phase, the unit is READY with the initial value, an empty buffer and zero
counters. -/
def Obligations.ShaInitReinitializes : Prop :=
  ∀ s : State,
    exec .shaInit s =
      .next (okAfter
        { s with
          sha :=
            { h := #v[0x22312194FC2BF72C, 0x9F555FA3C84C64C2, 0x2393B86B6F53B151, 0x963877195940EABD,
                      0x96283EE2A88EFFE3, 0xBE5E1E2553863992, 0x2B0199FC2C85B8AA, 0x0EB72DDC81C52CA2]
              buf := Vector.replicate 128 0
              cur := 0
              lenLo := 0
              lenHi := 0
              phase := .ready } } .none)

/-- R254: LEN_ADD adds to the 128-bit counter modulo `2^128` and changes nothing else. -/
def Obligations.LengthCounterCarries : Prop :=
  ∀ (u : ShaUnit) (n : Word64),
    let v := lenAdd u n
    v.lenHi.toNat * 2 ^ 64 + v.lenLo.toNat =
      (u.lenHi.toNat * 2 ^ 64 + u.lenLo.toNat + n.toNat) % 2 ^ 128 ∧
    v = { u with lenLo := v.lenLo, lenHi := v.lenHi }

/-- SHA_BYTE (R255, R262): the byte goes to the cursor and 8 bits onto the length; below the last place the
cursor moves on, at the last place the block is compressed and the buffer cleared. -/
def Obligations.ShaByteAppendsTheByte : Prop :=
  ∀ (b : Byte) (s : State), s.sha.phase ≠ .final →
    let len := (s.sha.lenHi.toNat * 2 ^ 64 + s.sha.lenLo.toNat + 8) % 2 ^ 128
    let block := s.sha.buf.set s.sha.cur.toNat b s.sha.cur.isLt
    let lo := BitVec.ofNat 64 len
    let hi := BitVec.ofNat 64 (len / 2 ^ 64)
    exec (.shaByte b) s =
      if s.sha.cur.toNat < 127 then
        .next (okAfter
          { s with
            sha :=
              { h := s.sha.h, buf := block, cur := BitVec.ofNat 7 (s.sha.cur.toNat + 1)
                lenLo := lo, lenHi := hi, phase := .accum } } .none)
      else
        .next (okAfter
          { s with
            sha :=
              { h := compress s.sha.h block, buf := Vector.replicate 128 0, cur := 0
                lenLo := lo, lenHi := hi, phase := .accum } } .none)

/-- R267: the message schedule has 80 words; the first 16 are the block's words, most significant byte
first, and each later one is the sum of the recurrence. -/
def Obligations.ScheduleFollowsTheRecurrence : Prop :=
  ∀ m : Vector Byte 128,
    (schedule m).length = 80 ∧
    (∀ t : Nat, t < 16 →
      (wordAt (schedule m) t).toNat =
        ((List.range 8).map fun k => (m.toList.getD (8 * t + k) 0).toNat * 2 ^ (8 * (7 - k))).sum) ∧
    ∀ t : Nat, 16 ≤ t → t < 80 →
      wordAt (schedule m) t =
        (rotate (wordAt (schedule m) (t - 2)) 19 ^^^ rotate (wordAt (schedule m) (t - 2)) 61
            ^^^ (wordAt (schedule m) (t - 2) >>> 6))
          + wordAt (schedule m) (t - 7)
          + (rotate (wordAt (schedule m) (t - 15)) 1 ^^^ rotate (wordAt (schedule m) (t - 15)) 8
            ^^^ (wordAt (schedule m) (t - 15) >>> 7))
          + wordAt (schedule m) (t - 16)

/-- R268, with the functions of R253: COMPRESS is 80 rounds from the state words, added into them. -/
def Obligations.CompressRunsEightyRounds : Prop :=
  ∀ (h : Vector Word64 8) (m : Vector Byte 128) (k : Nat) (hk : k < 8),
    (compress h m)[k] = h[k] + (workAfter h (schedule m) 80)[k]

/-- R252: each round constant is the first 64 bits of the fractional part of the cube root of its prime. -/
def Obligations.RoundConstantsAreCubeRoots : Prop :=
  shaK.length = 80 ∧ firstPrimes.length = 80 ∧
  ∀ t : Nat, t < 80 →
    ∃ whole : Nat, whole < 8 ∧
      (whole * 2 ^ 64 + (wordAt shaK t).toNat) ^ 3 ≤ firstPrimes.getD t 0 * 2 ^ 192 ∧
      firstPrimes.getD t 0 * 2 ^ 192 < (whole * 2 ^ 64 + (wordAt shaK t).toNat + 1) ^ 3

/-- SHA_FINAL (R258, R264): the buffered bytes, 0x80, the zeros and the two length words are one or two
blocks, which are compressed; the buffer is then empty, the length kept and the phase FINAL. -/
def Obligations.ShaFinalCompressesThePadding : Prop :=
  ∀ s : State, s.sha.phase ≠ .final →
    let c := s.sha.cur.toNat
    let tail := s.sha.buf.toList.take c ++ [0x80] ++ List.replicate (zeroCount c) 0
      ++ numberBytes 8 s.sha.lenHi.toNat .big ++ numberBytes 8 s.sha.lenLo.toNat .big
    tail.length = (if c ≤ 111 then 128 else 256) ∧
    exec .shaFinal s =
      .next (okAfter
        { s with
          sha :=
            { h := compressBlocks s.sha.h tail, buf := Vector.replicate 128 0, cur := 0
              lenLo := s.sha.lenLo, lenHi := s.sha.lenHi, phase := .final } } .none)

/-- SHA_DIGEST (R259, R265): in FINAL the first four state words, each big-endian; in any other phase the
command is refused. -/
def Obligations.ShaDigestReturnsFourWords : Prop :=
  ∀ s : State,
    exec .shaDigest s =
      if s.sha.phase = .final then
        .next (okAfter s (.bytes
          (numberBytes 8 s.sha.h[0].toNat .big ++ numberBytes 8 s.sha.h[1].toNat .big
            ++ numberBytes 8 s.sha.h[2].toNat .big ++ numberBytes 8 s.sha.h[3].toNat .big)))
      else .next (errorAfter s .sequence)

/-- R250, R258, R268 and R270 together: from any state, SHA_INIT, the bytes of any message, SHA_FINAL and
SHA_DIGEST return the first four words of the initial value compressed with the blocks of the padded
message, which are `m / 128` blocks and one or two more, and the length counter holds the message's
bits. -/
def Obligations.ShaHashesTheMessage : Prop :=
  ∀ (m : List Byte) (s : State),
    ∃ t, runAll ([.shaInit] ++ m.map .shaByte ++ [.shaFinal, .shaDigest]) s = .next t ∧
      t.sha.h = compressBlocks shaIv (paddedMessage m) ∧
      (paddedMessage m).length = 128 * (m.length / 128 + if m.length % 128 ≤ 111 then 1 else 2) ∧
      t.sha.lenHi.toNat * 2 ^ 64 + t.sha.lenLo.toNat = 8 * m.length % 2 ^ 128 ∧
      t.response = some { status := .ok, payload := .bytes (shaOut t.sha.h) }

/-- SHA_RDH (R266): in every phase the indices 0 to 7 return their state word; 8 and above are refused. -/
def Obligations.ShaRdhReadsTheStateWords : Prop :=
  ∀ (idx : Byte) (s : State),
    exec (.shaRdh idx) s =
      if idx.toNat < 8 then .next (okAfter s (.value (s.sha.h.toList.getD idx.toNat 0)))
      else .next (errorAfter s .invalidArgument)

/-! ### The multi-word engine -/

/-- R179: MWMUL is multiplication modulo `2^(32L)`, for every L and every operand words. -/
def Obligations.MwmulIsTruncatedMultiplication : Prop :=
  ∀ (as bs : List Word32) (l : Nat), l ≤ as.length → l ≤ bs.length →
    (mwMul as bs l).length = l ∧
    wordsValue (mwMul as bs l) =
      wordsValue (as.take l) * wordsValue (bs.take l) % 2 ^ (32 * l)

/-- MW_MUL (R174): with 1 ≤ L ≤ 32 the words of MW_A below L hold the product modulo `2^(32L)`, the words
from L on and all of MW_B are unchanged; with any other L the command is refused. -/
def Obligations.MwMulWritesTheProduct : Prop :=
  ∀ s : State,
    let l := s.mw.len.toNat
    (1 ≤ l ∧ l ≤ 32 →
      ∃ a : Vector Word32 32,
        exec .mwMul s = .next (okAfter { s with mw := { s.mw with a := a } } .none) ∧
        wordsValue (a.toList.take l) =
          wordsValue (s.mw.a.toList.take l) * wordsValue (s.mw.b.toList.take l) % 2 ^ (32 * l) ∧
        ∀ (k : Nat) (h : k < 32), l ≤ k → a[k] = s.mw.a[k]) ∧
    (l = 0 ∨ 32 < l → exec .mwMul s = .next (errorAfter s .unsupportedConfig))

/-- MW_LDA and MW_LDB (R172, R173): the word at the index takes OP[31:0]; an index of 32 or more is refused. -/
def Obligations.MwLoadsStoreOneWord : Prop :=
  ∀ (idx : Byte) (op : Word64) (s : State),
    (∀ h : idx.toNat < 32,
      exec (.mwLda idx op) s =
        .next (okAfter { s with
          mw := { s.mw with a := s.mw.a.set idx.toNat (BitVec.ofNat 32 op.toNat) h } } .none) ∧
      exec (.mwLdb idx op) s =
        .next (okAfter { s with
          mw := { s.mw with b := s.mw.b.set idx.toNat (BitVec.ofNat 32 op.toNat) h } } .none)) ∧
    (32 ≤ idx.toNat →
      exec (.mwLda idx op) s = .next (errorAfter s .invalidArgument) ∧
      exec (.mwLdb idx op) s = .next (errorAfter s .invalidArgument))

/-- MW_XORB (R175): word 0 of MW_A is XORed with the byte; no other word changes, whatever MW_L is. -/
def Obligations.MwXorbChangesWordZero : Prop :=
  ∀ (b : Byte) (s : State),
    ∃ a : Vector Word32 32,
      exec (.mwXorb b) s = .next (okAfter { s with mw := { s.mw with a := a } } .none) ∧
      a[0].toNat = s.mw.a[0].toNat ^^^ b.toNat ∧ ∀ (k : Nat) (h : k < 32), k ≠ 0 → a[k] = s.mw.a[k]

/-- MW_RDA and MW_RDB (R176, R177): the word at the index, zero-extended; 32 and above are refused. -/
def Obligations.MwReadsReturnTheWord : Prop :=
  ∀ (idx : Byte) (s : State),
    (∀ h : idx.toNat < 32,
      exec (.mwRda idx) s = .next (okAfter s (.value (BitVec.ofNat 64 s.mw.a[idx.toNat].toNat))) ∧
      exec (.mwRdb idx) s = .next (okAfter s (.value (BitVec.ofNat 64 s.mw.b[idx.toNat].toNat)))) ∧
    (32 ≤ idx.toNat →
      exec (.mwRda idx) s = .next (errorAfter s .invalidArgument) ∧
      exec (.mwRdb idx) s = .next (errorAfter s .invalidArgument))

/-! ### The whole machine -/

/-- R51 and R53: FNV_PHASE and CRC_PHASE are IDLE after reset and a failed start, ACTIVE after a successful
one, and no other command, decoded or not, changes them. -/
def Obligations.PhasesChangeOnlyAtStarts : Prop :=
  State.reset.fnv.phase = .idle ∧ State.reset.crc.phase = .idle ∧
  ∀ (s t : State) (c : Command) (rest : List Command), s.pending = c :: rest → step s = .next t →
    (t.fnv.phase =
      if decode c = .ok .reset then .idle
      else if decode c = .ok .fnvStart then (if t.last = .ok then .active else .idle)
      else s.fnv.phase) ∧
    (t.crc.phase =
      if decode c = .ok .reset then .idle
      else if decode c = .ok .crcStart then (if t.last = .ok then .active else .idle)
      else s.crc.phase)

/-- R90: a command that only reads changes LAST, STICKY and the response at most, and repeating one returns
the same response; a repeated read of STATUS returns STATUS with the LAST of the earlier read, OK. -/
def Obligations.ReadsHaveNoSideEffects : Prop :=
  ∀ (i : Instr) (s t : State), readCommand i → exec i s = .next t →
    t = { s with last := t.last, sticky := t.sticky, response := t.response } ∧
    (i ≠ .rdreg 0x00 → ∃ t', exec i t = .next t' ∧ t'.response = t.response) ∧
    (i = .rdreg 0x00 → t.last = .ok ∧
      exec i t = .next (okAfter t (.value (BitVec.ofNat 64 (statusNumber t)))))

/-- R334: a computation that runs does not read FNV_CFG, CRC_CTRL, CRC_POLY, CRC_INIT or CRC_XOROUT: with
other values in them, a byte, digest or table command gives the same response and the same state but
for those registers. -/
def Obligations.RunningComputationsUseTheLatch : Prop :=
  ∀ (i : Instr) (s t : State) (c : FnvCfg) (k : CrcCtrl) (poly init xorout : Word64),
    runningCommand i → exec i s = .next t →
    exec i (reconfigured s c k poly init xorout) = .next (reconfigured t c k poly init xorout)

/-- R333: the units share no state but CANON_ORDER and STATUS: what a command leaves in a unit depends on
that unit and CANON_ORDER alone. -/
def Obligations.UnitsAreIndependent : Prop :=
  ∀ (i : Instr) (s₁ s₂ t₁ t₂ : State), exec i s₁ = .next t₁ → exec i s₂ = .next t₂ →
    s₁.canonOrder = s₂.canonOrder →
    t₁.canonOrder = t₂.canonOrder ∧
    (s₁.fnv = s₂.fnv → t₁.fnv = t₂.fnv) ∧ (s₁.crc = s₂.crc → t₁.crc = t₂.crc) ∧
    (s₁.sha = s₂.sha → t₁.sha = t₂.sha) ∧ (s₁.mw = s₂.mw → t₁.mw = t₂.mw)

/-- THE INVARIANT, which every step keeps from every state that has it: a running FNV computation has a
supported width and an accumulator below `2^W`; CRC is active exactly with a valid table of its latched
polynomial and a register below `2^W`; the SHA cursor is the number of message bytes modulo 128 and the
buffer is zero from it on; the last error is sticky; the response carries LAST's status. -/
def Obligations.StepKeepsTheInvariant : Prop :=
  ∀ s t : State, stateInv s → step s = .next t → stateInv t

/-- The reset state has the invariant. -/
def Obligations.ResetHasTheInvariant : Prop := stateInv State.reset
end

