-- ==== Sys2Proof/Laws/State.lean ====
section
/-! SUPPORT. One lemma for each field of State after each named update, so that no later proof unfolds a
record update. -/

namespace Sys2Proof.Machine

open Sys2Proof

@[simp] theorem State.completed_last (s : State) (p : Payload) : (s.completed p).last = .ok :=
  rfl

@[simp] theorem State.completed_sticky (s : State) (p : Payload) : (s.completed p).sticky = s.sticky :=
  rfl

@[simp] theorem State.completed_canonOrder (s : State) (p : Payload) : (s.completed p).canonOrder = s.canonOrder :=
  rfl

@[simp] theorem State.completed_fnv (s : State) (p : Payload) : (s.completed p).fnv = s.fnv :=
  rfl

@[simp] theorem State.completed_crc (s : State) (p : Payload) : (s.completed p).crc = s.crc :=
  rfl

@[simp] theorem State.completed_sha (s : State) (p : Payload) : (s.completed p).sha = s.sha :=
  rfl

@[simp] theorem State.completed_mw (s : State) (p : Payload) : (s.completed p).mw = s.mw :=
  rfl

@[simp] theorem State.completed_pending (s : State) (p : Payload) : (s.completed p).pending = s.pending :=
  rfl

@[simp] theorem State.completed_response (s : State) (p : Payload) : (s.completed p).response = some { status := .ok, payload := p } :=
  rfl

@[simp] theorem State.raised_last (s : State) (e : Status) : (s.raised e).last = e :=
  rfl

@[simp] theorem State.raised_sticky (s : State) (e : Status) : (s.raised e).sticky = s.sticky ||| e.stickyBit :=
  rfl

@[simp] theorem State.raised_canonOrder (s : State) (e : Status) : (s.raised e).canonOrder = s.canonOrder :=
  rfl

@[simp] theorem State.raised_fnv (s : State) (e : Status) : (s.raised e).fnv = s.fnv :=
  rfl

@[simp] theorem State.raised_crc (s : State) (e : Status) : (s.raised e).crc = s.crc :=
  rfl

@[simp] theorem State.raised_sha (s : State) (e : Status) : (s.raised e).sha = s.sha :=
  rfl

@[simp] theorem State.raised_mw (s : State) (e : Status) : (s.raised e).mw = s.mw :=
  rfl

@[simp] theorem State.raised_pending (s : State) (e : Status) : (s.raised e).pending = s.pending :=
  rfl

@[simp] theorem State.raised_response (s : State) (e : Status) : (s.raised e).response = some { status := e, payload := .none } :=
  rfl

@[simp] theorem State.withFetchWord_last (s : State) (n w : Nat) :
    (s.withFetchWord n w).last = s.last := rfl

@[simp] theorem State.withFetchWord_sticky (s : State) (n w : Nat) :
    (s.withFetchWord n w).sticky = s.sticky := rfl

@[simp] theorem State.withFetchWord_canonOrder (s : State) (n w : Nat) :
    (s.withFetchWord n w).canonOrder = s.canonOrder := rfl

@[simp] theorem State.withFetchWord_fnv (s : State) (n w : Nat) :
    (s.withFetchWord n w).fnv = s.fnv := rfl

@[simp] theorem State.withFetchWord_crc (s : State) (n w : Nat) :
    (s.withFetchWord n w).crc = s.crc := rfl

@[simp] theorem State.withFetchWord_sha (s : State) (n w : Nat) :
    (s.withFetchWord n w).sha = s.sha := rfl

@[simp] theorem State.withFetchWord_mw (s : State) (n w : Nat) :
    (s.withFetchWord n w).mw = s.mw := rfl

@[simp] theorem State.withFetchWord_pending (s : State) (n w : Nat) :
    (s.withFetchWord n w).pending = tableCommand n w :: s.pending.tail := rfl

@[simp] theorem State.withFetchWord_response (s : State) (n w : Nat) :
    (s.withFetchWord n w).response = s.response := rfl

@[simp] theorem feedUnit_fnv_last (s : State) (b : Byte) : (feedUnit .fnv s b).last = s.last :=
  rfl

@[simp] theorem feedUnit_crc_last (s : State) (b : Byte) : (feedUnit .crc s b).last = s.last :=
  rfl

@[simp] theorem feedUnit_sha_last (s : State) (b : Byte) : (feedUnit .sha s b).last = s.last :=
  rfl

@[simp] theorem feedUnit_fnv_sticky (s : State) (b : Byte) : (feedUnit .fnv s b).sticky = s.sticky :=
  rfl

@[simp] theorem feedUnit_crc_sticky (s : State) (b : Byte) : (feedUnit .crc s b).sticky = s.sticky :=
  rfl

@[simp] theorem feedUnit_sha_sticky (s : State) (b : Byte) : (feedUnit .sha s b).sticky = s.sticky :=
  rfl

@[simp] theorem feedUnit_fnv_canonOrder (s : State) (b : Byte) : (feedUnit .fnv s b).canonOrder = s.canonOrder :=
  rfl

@[simp] theorem feedUnit_crc_canonOrder (s : State) (b : Byte) : (feedUnit .crc s b).canonOrder = s.canonOrder :=
  rfl

@[simp] theorem feedUnit_sha_canonOrder (s : State) (b : Byte) : (feedUnit .sha s b).canonOrder = s.canonOrder :=
  rfl

@[simp] theorem feedUnit_fnv_fnv (s : State) (b : Byte) : (feedUnit .fnv s b).fnv = fnvFeed1 s.fnv b :=
  rfl

@[simp] theorem feedUnit_crc_fnv (s : State) (b : Byte) : (feedUnit .crc s b).fnv = s.fnv :=
  rfl

@[simp] theorem feedUnit_sha_fnv (s : State) (b : Byte) : (feedUnit .sha s b).fnv = s.fnv :=
  rfl

@[simp] theorem feedUnit_fnv_crc (s : State) (b : Byte) : (feedUnit .fnv s b).crc = s.crc :=
  rfl

@[simp] theorem feedUnit_crc_crc (s : State) (b : Byte) : (feedUnit .crc s b).crc = crcFeed1 s.crc b :=
  rfl

@[simp] theorem feedUnit_sha_crc (s : State) (b : Byte) : (feedUnit .sha s b).crc = s.crc :=
  rfl

@[simp] theorem feedUnit_fnv_sha (s : State) (b : Byte) : (feedUnit .fnv s b).sha = s.sha :=
  rfl

@[simp] theorem feedUnit_crc_sha (s : State) (b : Byte) : (feedUnit .crc s b).sha = s.sha :=
  rfl

@[simp] theorem feedUnit_sha_sha (s : State) (b : Byte) : (feedUnit .sha s b).sha = shaFeed1 s.sha b :=
  rfl

@[simp] theorem feedUnit_fnv_mw (s : State) (b : Byte) : (feedUnit .fnv s b).mw = s.mw :=
  rfl

@[simp] theorem feedUnit_crc_mw (s : State) (b : Byte) : (feedUnit .crc s b).mw = s.mw :=
  rfl

@[simp] theorem feedUnit_sha_mw (s : State) (b : Byte) : (feedUnit .sha s b).mw = s.mw :=
  rfl

@[simp] theorem feedUnit_fnv_pending (s : State) (b : Byte) : (feedUnit .fnv s b).pending = s.pending :=
  rfl

@[simp] theorem feedUnit_crc_pending (s : State) (b : Byte) : (feedUnit .crc s b).pending = s.pending :=
  rfl

@[simp] theorem feedUnit_sha_pending (s : State) (b : Byte) : (feedUnit .sha s b).pending = s.pending :=
  rfl

@[simp] theorem feedUnit_fnv_response (s : State) (b : Byte) : (feedUnit .fnv s b).response = s.response :=
  rfl

@[simp] theorem feedUnit_crc_response (s : State) (b : Byte) : (feedUnit .crc s b).response = s.response :=
  rfl

@[simp] theorem feedUnit_sha_response (s : State) (b : Byte) : (feedUnit .sha s b).response = s.response :=
  rfl

@[simp] theorem State.writeReg_last (s : State) (r : Reg) (v : Word64) :
    (s.writeReg r v).last = s.last := by cases r <;> rfl

@[simp] theorem State.writeReg_sticky (s : State) (r : Reg) (v : Word64) :
    (s.writeReg r v).sticky = s.sticky := by cases r <;> rfl

@[simp] theorem State.writeReg_sha (s : State) (r : Reg) (v : Word64) :
    (s.writeReg r v).sha = s.sha := by cases r <;> rfl

@[simp] theorem State.writeReg_pending (s : State) (r : Reg) (v : Word64) :
    (s.writeReg r v).pending = s.pending := by cases r <;> rfl

@[simp] theorem State.writeReg_response (s : State) (r : Reg) (v : Word64) :
    (s.writeReg r v).response = s.response := by cases r <;> rfl

@[simp] theorem State.writeReg_fnv_act (s : State) (r : Reg) (v : Word64) :
    (s.writeReg r v).fnv.act = s.fnv.act := by cases r <;> rfl

@[simp] theorem State.writeReg_fnv_phase (s : State) (r : Reg) (v : Word64) :
    (s.writeReg r v).fnv.phase = s.fnv.phase := by cases r <;> rfl

@[simp] theorem State.writeReg_fnv_acc (s : State) (r : Reg) (v : Word64) :
    (s.writeReg r v).fnv.acc = s.fnv.acc := by cases r <;> rfl

@[simp] theorem State.writeReg_crc_actCtrl (s : State) (r : Reg) (v : Word64) :
    (s.writeReg r v).crc.actCtrl = s.crc.actCtrl := by cases r <;> rfl

@[simp] theorem State.writeReg_crc_actPoly (s : State) (r : Reg) (v : Word64) :
    (s.writeReg r v).crc.actPoly = s.crc.actPoly := by cases r <;> rfl

@[simp] theorem State.writeReg_crc_actXorout (s : State) (r : Reg) (v : Word64) :
    (s.writeReg r v).crc.actXorout = s.crc.actXorout := by cases r <;> rfl

@[simp] theorem State.writeReg_crc_table (s : State) (r : Reg) (v : Word64) :
    (s.writeReg r v).crc.table = s.crc.table := by cases r <;> rfl

@[simp] theorem State.writeReg_crc_tvalid (s : State) (r : Reg) (v : Word64) :
    (s.writeReg r v).crc.tvalid = s.crc.tvalid := by cases r <;> rfl

@[simp] theorem State.writeReg_crc_reg (s : State) (r : Reg) (v : Word64) :
    (s.writeReg r v).crc.reg = s.crc.reg := by cases r <;> rfl

@[simp] theorem State.writeReg_crc_phase (s : State) (r : Reg) (v : Word64) :
    (s.writeReg r v).crc.phase = s.crc.phase := by cases r <;> rfl

@[simp] theorem State.writeReg_mw_a (s : State) (r : Reg) (v : Word64) :
    (s.writeReg r v).mw.a = s.mw.a := by cases r <;> rfl

@[simp] theorem State.writeReg_mw_b (s : State) (r : Reg) (v : Word64) :
    (s.writeReg r v).mw.b = s.mw.b := by cases r <;> rfl

@[simp] theorem fnvFeed1_cfg (u : FnvUnit) (b : Byte) : (fnvFeed1 u b).cfg = u.cfg := by
  unfold fnvFeed1; cases u.act.mix <;> rfl

@[simp] theorem fnvFeed1_act (u : FnvUnit) (b : Byte) : (fnvFeed1 u b).act = u.act := by
  unfold fnvFeed1; cases u.act.mix <;> rfl

@[simp] theorem fnvFeed1_phase (u : FnvUnit) (b : Byte) : (fnvFeed1 u b).phase = u.phase := by
  unfold fnvFeed1; cases u.act.mix <;> rfl

@[simp] theorem crcFeed1_ctrl (u : CrcUnit) (b : Byte) : (crcFeed1 u b).ctrl = u.ctrl := rfl

@[simp] theorem crcFeed1_poly (u : CrcUnit) (b : Byte) : (crcFeed1 u b).poly = u.poly := rfl

@[simp] theorem crcFeed1_init (u : CrcUnit) (b : Byte) : (crcFeed1 u b).init = u.init := rfl

@[simp] theorem crcFeed1_xorout (u : CrcUnit) (b : Byte) : (crcFeed1 u b).xorout = u.xorout := rfl

@[simp] theorem crcFeed1_actCtrl (u : CrcUnit) (b : Byte) : (crcFeed1 u b).actCtrl = u.actCtrl := rfl

@[simp] theorem crcFeed1_actPoly (u : CrcUnit) (b : Byte) : (crcFeed1 u b).actPoly = u.actPoly := rfl

@[simp] theorem crcFeed1_actXorout (u : CrcUnit) (b : Byte) : (crcFeed1 u b).actXorout = u.actXorout := rfl

@[simp] theorem crcFeed1_table (u : CrcUnit) (b : Byte) : (crcFeed1 u b).table = u.table := rfl

@[simp] theorem crcFeed1_tvalid (u : CrcUnit) (b : Byte) : (crcFeed1 u b).tvalid = u.tvalid := rfl

@[simp] theorem crcFeed1_phase (u : CrcUnit) (b : Byte) : (crcFeed1 u b).phase = u.phase := rfl

@[simp] theorem lenAdd_h (u : ShaUnit) (n : Word64) : (lenAdd u n).h = u.h := rfl

@[simp] theorem lenAdd_buf (u : ShaUnit) (n : Word64) : (lenAdd u n).buf = u.buf := rfl

@[simp] theorem lenAdd_cur (u : ShaUnit) (n : Word64) : (lenAdd u n).cur = u.cur := rfl

@[simp] theorem lenAdd_phase (u : ShaUnit) (n : Word64) : (lenAdd u n).phase = u.phase := rfl

@[simp] theorem shaPad1_lenLo (u : ShaUnit) (b : Byte) : (shaPad1 u b).lenLo = u.lenLo := by
  unfold shaPad1; split <;> rfl

@[simp] theorem shaPad1_lenHi (u : ShaUnit) (b : Byte) : (shaPad1 u b).lenHi = u.lenHi := by
  unfold shaPad1; split <;> rfl

@[simp] theorem shaPad1_phase (u : ShaUnit) (b : Byte) : (shaPad1 u b).phase = u.phase := by
  unfold shaPad1; split <;> rfl

@[simp] theorem shaFeed1_phase (u : ShaUnit) (b : Byte) : (shaFeed1 u b).phase = .accum := rfl

@[simp] theorem shaFeed1_h (u : ShaUnit) (b : Byte) :
    (shaFeed1 u b).h = (shaPad1 u b).h := by
  by_cases h : u.cur.toNat + 1 = 128 <;> simp [shaFeed1, shaPad1, h]

@[simp] theorem shaFeed1_buf (u : ShaUnit) (b : Byte) :
    (shaFeed1 u b).buf = (shaPad1 u b).buf := by
  by_cases h : u.cur.toNat + 1 = 128 <;> simp [shaFeed1, shaPad1, h]

@[simp] theorem shaFeed1_cur (u : ShaUnit) (b : Byte) :
    (shaFeed1 u b).cur = (shaPad1 u b).cur := by
  by_cases h : u.cur.toNat + 1 = 128 <;> simp [shaFeed1, shaPad1, h]

@[simp] theorem shaFeed1_lenLo (u : ShaUnit) (b : Byte) :
    (shaFeed1 u b).lenLo = (lenAdd u 8).lenLo := by simp [shaFeed1]

@[simp] theorem shaFeed1_lenHi (u : ShaUnit) (b : Byte) :
    (shaFeed1 u b).lenHi = (lenAdd u 8).lenHi := by simp [shaFeed1]

end Sys2Proof.Machine
end

