-- ==== Sys2Proof/Laws/Ops.lean ====
section
/-! SUPPORT. For each shared operation, one lemma that says everything it can do, to be cited instead of
unfolding it. -/

namespace Sys2Proof.Machine

open Sys2Proof

/-! ### Bits, bytes and arrays -/

theorem tabulate_getElem {α : Type} (n : Nat) (f : Nat → α) (k : Nat) (h : k < n) :
    (tabulate n f)[k] = f k := by
  simp [tabulate]

theorem keepLow_toNat {w : Nat} (n : Nat) (x : BitVec w) : (keepLow n x).toNat = x.toNat % 2 ^ n := by
  simp only [keepLow, BitVec.toNat_setWidth]
  exact Nat.mod_eq_of_lt (Nat.lt_of_le_of_lt (Nat.mod_le _ _) x.isLt)

theorem keepLow_lt {w : Nat} (n : Nat) (x : BitVec w) : (keepLow n x).toNat < 2 ^ n := by
  rw [keepLow_toNat]
  exact Nat.mod_lt _ (Nat.two_pow_pos n)

theorem keepLow_of_lt {w : Nat} (n : Nat) (x : BitVec w) (h : x.toNat < 2 ^ n) : keepLow n x = x := by
  apply BitVec.eq_of_toNat_eq
  rw [keepLow_toNat, Nat.mod_eq_of_lt h]

theorem keepLow_getLsbD {w : Nat} (n : Nat) (x : BitVec w) (i : Nat) :
    (keepLow n x).getLsbD i = (decide (i < n) && x.getLsbD i) := by
  rcases Nat.lt_or_ge i w with h | h
  · simp [keepLow, BitVec.getLsbD_setWidth, h]
  · simp [keepLow, BitVec.getLsbD_setWidth, BitVec.getLsbD_of_ge x i h, Nat.not_lt.mpr h]

@[simp] theorem leBytes_length {w : Nat} (n : Nat) (x : BitVec w) : (leBytes n x).length = n := by
  simp [leBytes]

@[simp] theorem beBytes_length {w : Nat} (n : Nat) (x : BitVec w) : (beBytes n x).length = n := by
  simp [beBytes]

@[simp] theorem orderedBytes_length {w : Nat} (n : Nat) (x : BitVec w) (o : ByteOrder) :
    (orderedBytes n x o).length = n := by
  cases o <;> simp [orderedBytes]

theorem reflect_getLsbD {w : Nat} (n : Nat) (x : BitVec w) (i : Nat) (hn : n ≤ w) :
    (reflect n x).getLsbD i = (decide (i < n) && x.getLsbD (n - 1 - i)) := by
  unfold reflect
  rw [BitVec.getLsbD_setWidth, BitVec.getLsbD_reverse, BitVec.getMsbD_eq_getLsbD,
    BitVec.getLsbD_setWidth]
  rcases Nat.lt_or_ge i n with h | h
  · have hw : i < w := Nat.lt_of_lt_of_le h hn
    have h1 : n - 1 - i < n := by omega
    simp [h, hw, h1]
  · simp [Nat.not_lt.mpr h]

/-! ### The port -/

theorem State.takeCommand_nil (s : State) (h : s.pending = []) : s.takeCommand = none := by
  simp [State.takeCommand, h]

theorem State.takeCommand_cons (s : State) (c : Command) (rest : List Command)
    (h : s.pending = c :: rest) : s.takeCommand = some (c, { s with pending := rest }) := by
  simp [State.takeCommand, h]

/-! ### The multi-word product -/

@[simp] theorem mulRow_length (a : Word32) (bs rs : List Word32) (c : Nat) :
    (mulRow a bs rs c).length = rs.length := by
  induction rs generalizing bs c with
  | nil => cases bs <;> rfl
  | cons r rs ih => cases bs with
    | nil => rfl
    | cons b bs => simp [mulRow, ih]

@[simp] theorem mulRows_length (as bs rs : List Word32) : (mulRows as bs rs).length = rs.length := by
  induction as generalizing bs rs with
  | nil => rfl
  | cons a as ih =>
    have h := mulRow_length a bs rs 0
    unfold mulRows
    split
    · rename_i h'; rw [h'] at h; exact h
    · rename_i h'; rw [h'] at h; simpa [ih] using h

@[simp] theorem mwMul_length (as bs : List Word32) (l : Nat) : (mwMul as bs l).length = l := by
  simp [mwMul]

/-! ### Feeds -/

/-- FNV_FEED1 changes FNV_ACC alone. -/
theorem fnvFeed1_eq (u : FnvUnit) (b : Byte) : fnvFeed1 u b = { u with acc := (fnvFeed1 u b).acc } := by
  unfold fnvFeed1; cases u.act.mix <;> rfl

/-- CRC_FEED1 changes CRC_REG alone. -/
theorem crcFeed1_eq (u : CrcUnit) (b : Byte) : crcFeed1 u b = { u with reg := (crcFeed1 u b).reg } := rfl

/-- A byte that does not fill the block is stored at the cursor. -/
theorem shaPad1_of_lt (u : ShaUnit) (b : Byte) (h : u.cur.toNat < 127) :
    shaPad1 u b = { u with buf := u.buf.set u.cur.toNat b u.cur.isLt, cur := u.cur + 1 } := by
  unfold shaPad1; rw [if_neg (by omega)]

/-- The byte that fills the block compresses it and clears the buffer. -/
theorem shaPad1_of_last (u : ShaUnit) (b : Byte) (h : u.cur.toNat = 127) :
    shaPad1 u b =
      { u with
        h := compress u.h (u.buf.set u.cur.toNat b u.cur.isLt)
        buf := Vector.replicate 128 0
        cur := 0 } := by
  unfold shaPad1; rw [if_pos (by omega)]

/-- LEN_ADD changes the two halves of the counter alone. -/
theorem lenAdd_eq (u : ShaUnit) (n : Word64) :
    lenAdd u n = { u with lenLo := (lenAdd u n).lenLo, lenHi := (lenAdd u n).lenHi } := rfl

/-! ### The meanings -/

/-- How a command ends: with OK after its own changes, or with an error from the state before it, but for
the phases that a failed start changes. -/
theorem exec_ends (i : Instr) (s : State) :
    (∃ s' p, exec i s = .next (State.completed s' p) ∧ s'.pending = s.pending) ∨
    (∃ s' e, exec i s = .next (State.raised s' e) ∧ e ≠ .ok ∧
      (s' = s ∨ (i = .fnvStart ∧ s' = { s with fnv := { s.fnv with phase := .idle } }) ∨
        (i = .crcStart ∧ s' = { s with crc := { s.crc with phase := .idle, tvalid := false } }))) := by
  have feed : ∀ (u : EmitUnit) (bs : List Byte) (s : State),
      (bs.foldl (feedUnit u) s).pending = s.pending := by
    intro u bs
    induction bs with
    | nil => intro s; rfl
    | cons b bs ih => intro s; rw [List.foldl_cons, ih]; cases u <;> rfl
  cases i <;> simp only [exec]
  case nop => exact .inl ⟨s, .none, rfl, rfl⟩
  case reset => exact .inl ⟨_, _, rfl, rfl⟩
  case info idx =>
    unfold execInfo; split
    · exact .inr ⟨_, _, rfl, nofun, .inl rfl⟩
    · exact .inl ⟨_, _, rfl, rfl⟩
  case rdreg idx =>
    unfold execRdreg; split
    · exact .inr ⟨_, _, rfl, nofun, .inl rfl⟩
    · exact .inl ⟨_, _, rfl, rfl⟩
  case wrreg idx op =>
    unfold execWrreg; split
    · exact .inr ⟨_, _, rfl, nofun, .inl rfl⟩
    · split
      · exact .inl ⟨_, _, rfl, State.writeReg_pending _ _ _⟩
      · exact .inr ⟨_, _, rfl, nofun, .inl rfl⟩
  case emit unit sz op =>
    unfold execEmit; split
    · exact .inr ⟨_, _, rfl, nofun, .inl rfl⟩
    · split
      · exact .inr ⟨_, _, rfl, nofun, .inl rfl⟩
      · split
        · exact .inl ⟨_, _, rfl, feed _ _ _⟩
        · exact .inr ⟨_, _, rfl, nofun, .inl rfl⟩
  case fnvStart =>
    unfold execFnvStart; split
    · exact .inr ⟨_, _, rfl, nofun, .inr (.inl ⟨trivial, rfl⟩)⟩
    · exact .inl ⟨_, _, rfl, rfl⟩
  case crcStart =>
    unfold execCrcStart; split
    · exact .inl ⟨_, _, rfl, rfl⟩
    · exact .inr ⟨_, _, rfl, nofun, .inr (.inr ⟨trivial, rfl⟩)⟩
  case fnvByte b =>
    unfold execFnvByte; split
    · exact .inr ⟨_, _, rfl, nofun, .inl rfl⟩
    · exact .inl ⟨_, _, rfl, rfl⟩
  case fnvDigest =>
    unfold execFnvDigest; split
    · exact .inr ⟨_, _, rfl, nofun, .inl rfl⟩
    · exact .inl ⟨_, _, rfl, rfl⟩
  case crcByte b =>
    unfold execCrcByte; split
    · exact .inr ⟨_, _, rfl, nofun, .inl rfl⟩
    · exact .inl ⟨_, _, rfl, rfl⟩
  case crcDigest =>
    unfold execCrcDigest; split
    · exact .inr ⟨_, _, rfl, nofun, .inl rfl⟩
    · exact .inl ⟨_, _, rfl, rfl⟩
  case crcRdtab idx =>
    unfold execCrcRdtab; split
    · exact .inl ⟨_, _, rfl, rfl⟩
    · exact .inr ⟨_, _, rfl, nofun, .inl rfl⟩
  case shaInit => exact .inl ⟨_, _, rfl, rfl⟩
  case shaByte b =>
    unfold execShaByte; split
    · exact .inr ⟨_, _, rfl, nofun, .inl rfl⟩
    all_goals exact .inl ⟨_, _, rfl, rfl⟩
  case shaFinal =>
    unfold execShaFinal; split
    · exact .inr ⟨_, _, rfl, nofun, .inl rfl⟩
    all_goals exact .inl ⟨_, _, rfl, rfl⟩
  case shaDigest =>
    unfold execShaDigest; split
    · exact .inl ⟨_, _, rfl, rfl⟩
    all_goals exact .inr ⟨_, _, rfl, nofun, .inl rfl⟩
  case shaRdh idx =>
    unfold execShaRdh; split
    · exact .inr ⟨_, _, rfl, nofun, .inl rfl⟩
    · exact .inl ⟨_, _, rfl, rfl⟩
  case mwLda idx op =>
    unfold execMwLda; split
    · exact .inr ⟨_, _, rfl, nofun, .inl rfl⟩
    · exact .inl ⟨_, _, rfl, rfl⟩
  case mwLdb idx op =>
    unfold execMwLdb; split
    · exact .inr ⟨_, _, rfl, nofun, .inl rfl⟩
    · exact .inl ⟨_, _, rfl, rfl⟩
  case mwMul =>
    unfold execMwMul; split
    · exact .inr ⟨_, _, rfl, nofun, .inl rfl⟩
    · exact .inl ⟨_, _, rfl, rfl⟩
  case mwXorb b => exact .inl ⟨_, _, rfl, rfl⟩
  case mwRda idx =>
    unfold execMwRda; split
    · exact .inr ⟨_, _, rfl, nofun, .inl rfl⟩
    · exact .inl ⟨_, _, rfl, rfl⟩
  case mwRdb idx =>
    unfold execMwRdb; split
    · exact .inr ⟨_, _, rfl, nofun, .inl rfl⟩
    · exact .inl ⟨_, _, rfl, rfl⟩

end Sys2Proof.Machine
end

