-- ==== Sys2Proof/Laws/PerInstr.lean ====
section
/-! SUPPORT. Statements about every instruction as syntax, one lemma for each constructor of Instr. -/

namespace Sys2Proof.Laws

open Sys2Proof

/-- Under its opcode's mask, the encoded command word is the opcode's match word (R106). -/
def FixedBits.Statement (i : Instr) : Prop := encodeWord i &&& i.opcode.mask = i.opcode.matchWord

theorem FixedBits.nop : FixedBits.Statement .nop := by
  unfold FixedBits.Statement
  decide

theorem FixedBits.reset : FixedBits.Statement .reset := by
  unfold FixedBits.Statement
  decide

theorem FixedBits.info (idx : Byte) : FixedBits.Statement (.info idx) := by
  have h : ∀ (idx : Byte), FixedBits.Statement (.info idx) := by
    unfold FixedBits.Statement
    decide +kernel
  exact h idx

theorem FixedBits.rdreg (idx : Byte) : FixedBits.Statement (.rdreg idx) := by
  have h : ∀ (idx : Byte), FixedBits.Statement (.rdreg idx) := by
    unfold FixedBits.Statement
    decide +kernel
  exact h idx

theorem FixedBits.wrreg (idx : Byte) (op : Word64) : FixedBits.Statement (.wrreg idx op) := by
  have h : ∀ (idx : Byte), FixedBits.Statement (.wrreg idx 0) := by
    unfold FixedBits.Statement
    decide +kernel
  exact h idx

theorem FixedBits.emit (unit : BitVec 4) (sz : BitVec 4) (op : Word64) : FixedBits.Statement (.emit unit sz op) := by
  have h : ∀ (unit : BitVec 4) (sz : BitVec 4), FixedBits.Statement (.emit unit sz 0) := by
    unfold FixedBits.Statement
    decide +kernel
  exact h unit sz

theorem FixedBits.fnvStart : FixedBits.Statement .fnvStart := by
  unfold FixedBits.Statement
  decide

theorem FixedBits.fnvByte (b : Byte) : FixedBits.Statement (.fnvByte b) := by
  have h : ∀ (b : Byte), FixedBits.Statement (.fnvByte b) := by
    unfold FixedBits.Statement
    decide +kernel
  exact h b

theorem FixedBits.fnvDigest : FixedBits.Statement .fnvDigest := by
  unfold FixedBits.Statement
  decide

theorem FixedBits.crcStart : FixedBits.Statement .crcStart := by
  unfold FixedBits.Statement
  decide

theorem FixedBits.crcByte (b : Byte) : FixedBits.Statement (.crcByte b) := by
  have h : ∀ (b : Byte), FixedBits.Statement (.crcByte b) := by
    unfold FixedBits.Statement
    decide +kernel
  exact h b

theorem FixedBits.crcDigest : FixedBits.Statement .crcDigest := by
  unfold FixedBits.Statement
  decide

theorem FixedBits.crcRdtab (idx : Byte) : FixedBits.Statement (.crcRdtab idx) := by
  have h : ∀ (idx : Byte), FixedBits.Statement (.crcRdtab idx) := by
    unfold FixedBits.Statement
    decide +kernel
  exact h idx

theorem FixedBits.shaInit : FixedBits.Statement .shaInit := by
  unfold FixedBits.Statement
  decide

theorem FixedBits.shaByte (b : Byte) : FixedBits.Statement (.shaByte b) := by
  have h : ∀ (b : Byte), FixedBits.Statement (.shaByte b) := by
    unfold FixedBits.Statement
    decide +kernel
  exact h b

theorem FixedBits.shaFinal : FixedBits.Statement .shaFinal := by
  unfold FixedBits.Statement
  decide

theorem FixedBits.shaDigest : FixedBits.Statement .shaDigest := by
  unfold FixedBits.Statement
  decide

theorem FixedBits.shaRdh (idx : Byte) : FixedBits.Statement (.shaRdh idx) := by
  have h : ∀ (idx : Byte), FixedBits.Statement (.shaRdh idx) := by
    unfold FixedBits.Statement
    decide +kernel
  exact h idx

theorem FixedBits.mwLda (idx : Byte) (op : Word64) : FixedBits.Statement (.mwLda idx op) := by
  have h : ∀ (idx : Byte), FixedBits.Statement (.mwLda idx 0) := by
    unfold FixedBits.Statement
    decide +kernel
  exact h idx

theorem FixedBits.mwLdb (idx : Byte) (op : Word64) : FixedBits.Statement (.mwLdb idx op) := by
  have h : ∀ (idx : Byte), FixedBits.Statement (.mwLdb idx 0) := by
    unfold FixedBits.Statement
    decide +kernel
  exact h idx

theorem FixedBits.mwMul : FixedBits.Statement .mwMul := by
  unfold FixedBits.Statement
  decide

theorem FixedBits.mwXorb (b : Byte) : FixedBits.Statement (.mwXorb b) := by
  have h : ∀ (b : Byte), FixedBits.Statement (.mwXorb b) := by
    unfold FixedBits.Statement
    decide +kernel
  exact h b

theorem FixedBits.mwRda (idx : Byte) : FixedBits.Statement (.mwRda idx) := by
  have h : ∀ (idx : Byte), FixedBits.Statement (.mwRda idx) := by
    unfold FixedBits.Statement
    decide +kernel
  exact h idx

theorem FixedBits.mwRdb (idx : Byte) : FixedBits.Statement (.mwRdb idx) := by
  have h : ∀ (idx : Byte), FixedBits.Statement (.mwRdb idx) := by
    unfold FixedBits.Statement
    decide +kernel
  exact h idx

end Sys2Proof.Laws
end

