-- ==== Sys2Proof/Tests/Slice0.lean ====
section
/-! SUPPORT. Tests of the model: the WellFormed smoke tests, the decoding of words written out from
30_encoding.md R102 and R106, one or two single steps for each command with results from the spec's own
tables and examples, and a witness for the hypotheses of every statement that has some. -/

namespace Sys2Proof.Tests

open Sys2Proof Sys2Proof.Machine Sys2Proof.Claims

/-! ### Helpers -/

/-- The state that a command leaves. -/
def after (i : Instr) (s : State) : State :=
  match exec i s with
  | .next t => t
  | .fault _ => s
  | .refused _ => s

/-- The status of a command. -/
def statusOf (i : Instr) (s : State) : Status := (after i s).last

/-- The value that a command returns; `none` for an error or another payload. -/
def valueOf (i : Instr) (s : State) : Option Word64 :=
  match (after i s).response with
  | some { status := .ok, payload := .value v } => some v
  | _ => none

/-- The bytes that a command returns. -/
def bytesOf (i : Instr) (s : State) : Option (List Byte) :=
  match (after i s).response with
  | some { status := .ok, payload := .bytes l } => some l
  | _ => none

/-- A state with an ACTIVE FNV unit. -/
def fnvOn (width : BitVec 3) (mix : Mixing) (order : ByteOrder) (acc : BitVec 1024) : State :=
  let c : FnvCfg := { width := width, mix := mix, order := order }
  { State.reset with fnv := { cfg := c, act := c, phase := .active, acc := acc } }

/-- A state whose CRC unit is ACTIVE with the CRC-32 configuration of reset. -/
def crcOn (reg : Word64) : State :=
  let s := after .crcStart State.reset
  { s with crc := { s.crc with reg := reg } }

/-- A state in ACCUM at a cursor position. -/
def shaAt (cur : BitVec 7) (lenLo : Word64) : State :=
  { State.reset with sha := { shaFresh with cur := cur, lenLo := lenLo, phase := .accum } }

/-- A state in FINAL. -/
def shaDone : State := { State.reset with sha := { shaFresh with phase := .final } }

/-- A state with words in MW_A and MW_B. -/
def mwWith (len : BitVec 6) (a b : List Word32) : State :=
  { State.reset with
    mw := { len := len, a := tabulate 32 fun k => a.getD k 0, b := tabulate 32 fun k => b.getD k 0 } }

/-- A state with one command at the port. -/
def withCommand (cw : Word32) (op : Word64) : State :=
  { State.reset with pending := [{ cw := cw, op := op }] }

/-! ### WellFormed -/

theorem test_wf_info : Instr.wellFormed (.info 5) = false ∧ Instr.wellFormed (.info 4) = true := by decide
theorem test_wf_rdreg : Instr.wellFormed (.rdreg 0x02) = false ∧ Instr.wellFormed (.rdreg 0x32) = true := by
  decide
theorem test_wf_wrreg_readOnly : Instr.wellFormed (.wrreg 0x00 0) = false := by decide
theorem test_wf_wrreg_reserved : Instr.wellFormed (.wrreg 0x02 0) = false := by decide
theorem test_wf_emit_unit : Instr.wellFormed (.emit 3 0 0) = false ∧ Instr.wellFormed (.emit 2 3 0) = true := by
  decide
theorem test_wf_emit_size : Instr.wellFormed (.emit 0 4 0) = false := by decide
theorem test_wf_shaRdh : Instr.wellFormed (.shaRdh 8) = false ∧ Instr.wellFormed (.shaRdh 7) = true := by decide
theorem test_wf_mw :
    [Instr.mwLda 32 0, .mwLdb 32 0, .mwRda 32, .mwRdb 32].all (fun i => i.wellFormed == false) = true := by
  decide

/-! ### Decoding: each command's word, bit by bit from R102 and R106 -/

theorem test_decode_nop : decode { cw := 0b00000000_0000_0000_00000000_00000000, op := 7 } = .ok .nop := by rfl
theorem test_decode_reset : decode { cw := 0b00000001_0000_0000_00000000_00000000, op := 0 } = .ok .reset := by
  rfl
theorem test_decode_info : decode { cw := 0b00000010_0000_0000_00000011_00000000, op := 0 } = .ok (.info 3) := by
  rfl
theorem test_decode_rdreg :
    decode { cw := 0b00000011_0000_0000_00100101_00000000, op := 0 } = .ok (.rdreg 0x25) := by rfl
theorem test_decode_wrreg :
    decode { cw := 0x04002100, op := 0x42F0E1EBA9EA3693 } = .ok (.wrreg 0x21 0x42F0E1EBA9EA3693) := by rfl
theorem test_decode_emit : decode { cw := 0x08210000, op := 0x6162 } = .ok (.emit 2 1 0x6162) := by rfl
theorem test_decode_emit_outOfRange :
    decode { cw := 0b00001000_1111_0100_00000000_00000000, op := 1 } = .ok (.emit 15 4 1) := by rfl
theorem test_decode_fnvStart :
    decode { cw := 0b00010000_0000_0000_00000000_00000000, op := 0 } = .ok .fnvStart := by rfl
theorem test_decode_fnvByte : decode { cw := 0x11000068, op := 0 } = .ok (.fnvByte 0x68) := by rfl
theorem test_decode_fnvDigest :
    decode { cw := 0b00010010_0000_0000_00000000_00000000, op := 0 } = .ok .fnvDigest := by rfl
theorem test_decode_crcStart :
    decode { cw := 0b00100000_0000_0000_00000000_00000000, op := 0 } = .ok .crcStart := by rfl
theorem test_decode_crcByte :
    decode { cw := 0b00100001_0000_0000_00000000_10000001, op := 0 } = .ok (.crcByte 0x81) := by rfl
theorem test_decode_crcDigest :
    decode { cw := 0b00100010_0000_0000_00000000_00000000, op := 0 } = .ok .crcDigest := by rfl
theorem test_decode_crcRdtab : decode { cw := 0x2300FF00, op := 0 } = .ok (.crcRdtab 255) := by rfl
theorem test_decode_shaInit :
    decode { cw := 0b00110000_0000_0000_00000000_00000000, op := 0 } = .ok .shaInit := by rfl
theorem test_decode_shaByte :
    decode { cw := 0b00110001_0000_0000_00000000_01100001, op := 0 } = .ok (.shaByte 0x61) := by rfl
theorem test_decode_shaFinal :
    decode { cw := 0b00110010_0000_0000_00000000_00000000, op := 0 } = .ok .shaFinal := by rfl
theorem test_decode_shaDigest :
    decode { cw := 0b00110011_0000_0000_00000000_00000000, op := 0 } = .ok .shaDigest := by rfl
theorem test_decode_shaRdh : decode { cw := 0x34000300, op := 0 } = .ok (.shaRdh 3) := by rfl
theorem test_decode_mwLda :
    decode { cw := 0b01000000_0000_0000_00011111_00000000, op := 9 } = .ok (.mwLda 31 9) := by rfl
theorem test_decode_mwLdb :
    decode { cw := 0b01000001_0000_0000_00000001_00000000, op := 9 } = .ok (.mwLdb 1 9) := by rfl
theorem test_decode_mwMul :
    decode { cw := 0b01000010_0000_0000_00000000_00000000, op := 0 } = .ok .mwMul := by rfl
theorem test_decode_mwXorb :
    decode { cw := 0b01000011_0000_0000_00000000_11111111, op := 0 } = .ok (.mwXorb 0xFF) := by rfl
theorem test_decode_mwRda :
    decode { cw := 0b01000100_0000_0000_00000010_00000000, op := 0 } = .ok (.mwRda 2) := by rfl
theorem test_decode_mwRdb :
    decode { cw := 0b01000101_0000_0000_00000100_00000000, op := 0 } = .ok (.mwRdb 4) := by rfl

/-- R103 and R112: FNV_BYTE with IDX = 1. -/
theorem test_decode_fieldNotZero :
    decode { cw := 0x11000168, op := 0 } = .error (.fieldNotZero .fnvByte) := by rfl
/-- R108 and R112: OPC 0x05. -/
theorem test_decode_reserved : decode { cw := 0x05000000, op := 0 } = .error (.reservedOpcode 0x05) := by rfl
/-- The ends of the reserved ranges of R108. -/
theorem test_decode_reservedRanges :
    ([0x05, 0x07, 0x09, 0x0F, 0x13, 0x1F, 0x24, 0x2F, 0x35, 0x3F, 0x46, 0xFF] : List Byte).all
      (fun o => Opcode.ofCode o == none) = true := by decide
/-- Each format refuses a bit it must not have: N bit 0, B bit 8, I and W bits 0 and 16, E bit 15. -/
theorem test_decode_mustBeZero :
    ([0x10000001, 0x21000100, 0x23000001, 0x34010000, 0x40000001, 0x04800000, 0x08008000] : List Word32).all
      (fun w => match decode { cw := w, op := 0 } with
        | .ok _ => false
        | .error _ => true) = true := by decide
theorem test_decodeTableWord :
    decodeTableWord 32 0x11000068 = some (.fnvByte 0x68) ∧
    decodeTableWord 96 (0x04002100 + 2 ^ 32 * 0x42F0E1EBA9EA3693) =
      some (.wrreg 0x21 0x42F0E1EBA9EA3693) ∧
    decodeTableWord 32 0x11000168 = none := ⟨by rfl, by rfl, by rfl⟩
/-- A table word placed for the fetch is the instruction that the next step runs. -/
theorem test_withFetchWord : step (State.reset.withFetchWord 32 0x34000300) = exec (.shaRdh 3) State.reset := by
  rfl

/-! ### Global commands -/

theorem test_nop_keepsSticky :
    (after .nop { State.reset with sticky := 5, last := .illegal }).sticky = 5 ∧
    statusOf .nop { State.reset with sticky := 5, last := .illegal } = .ok := by decide
theorem test_reset_clears :
    after .reset { shaDone with sticky := 15, last := .illegal } = after .nop State.reset := by rfl
theorem test_info : [0, 1, 2, 3, 4, 5].map (fun k : Byte => valueOf (.info k) State.reset) =
    [some 80, some 256, some 32, some 128, some 0x3F, none] := by decide
theorem test_info_outOfRange : statusOf (.info 5) State.reset = .invalidArgument := by decide
/-- R43's reset value: WIDTH 32, REFIN 1, REFOUT 1, ORDER 0. -/
theorem test_rdreg_crcCtrl : valueOf (.rdreg 0x20) State.reset = some 0x320 := by decide
/-- STATUS after a failed command in FINAL: LAST 4, bit 11, SHA_PHASE 2 (R37). -/
theorem test_rdreg_status : valueOf (.rdreg 0x00) (after (.shaByte 0) shaDone) = some 0x200804 := by decide
/-- Unimplemented bits read 0 (R36). -/
theorem test_wrreg_masks :
    valueOf (.rdreg 0x10) (after (.wrreg 0x10 0xFFFFFFFFFFFFFFFF) State.reset) = some 0x117 ∧
    valueOf (.rdreg 0x20) (after (.wrreg 0x20 0xFFFFFFFFFFFFFFFF) State.reset) = some 0x137F ∧
    valueOf (.rdreg 0x40) (after (.wrreg 0x40 0xFFFFFFFFFFFFFFFF) State.reset) = some 0x3F := by decide
theorem test_wrreg_readOnly :
    statusOf (.wrreg 0x24 1) State.reset = .invalidArgument ∧
    statusOf (.wrreg 0x28 1) State.reset = .invalidArgument := by decide

/-! ### The canonicalizer -/

/-- The most significant byte first at reset (R80). -/
theorem test_emit_bigEndian :
    let u := (after (.emit 2 1 0x6162) State.reset).sha
    u.buf[0] = 0x61 ∧ u.buf[1] = 0x62 ∧ u.cur = 2 ∧ u.lenLo = 16 := by decide
/-- UNIT is checked, then SZ, then the phase (R152, R296). -/
theorem test_emit_checks :
    statusOf (.emit 3 0 0) State.reset = .invalidArgument ∧ statusOf (.emit 0 4 0) State.reset = .invalidArgument ∧
    statusOf (.emit 0 0 0) State.reset = .sequence ∧ statusOf (.emit 1 3 0) State.reset = .sequence ∧
    statusOf (.emit 2 3 0) shaDone = .sequence := by decide
/-- R11: the two orders of `0x01020304` as 4 bytes. -/
theorem test_canonBytes :
    canonBytes 0x01020304 4 .big = [1, 2, 3, 4] ∧ canonBytes 0x01020304 4 .little = [4, 3, 2, 1] := by decide

/-! ### FNV -/

theorem test_fnvStart_offset :
    (after .fnvStart State.reset).fnv.acc.setWidth 32 = 0x811C9DC5#32 ∧
    (after .fnvStart State.reset).fnv.phase = .active := by decide +kernel
theorem test_fnvStart_reservedWidth :
    let s := after .fnvStart { fnvOn 6 .a .big 5 with sticky := 0 }
    s.last = .unsupportedConfig ∧ s.fnv.phase = .idle ∧ s.fnv.acc.toNat = 5 := by decide +kernel
/-- FNV-1a and FNV-1 of `a` in 32 bits (95_test_vectors.md). -/
theorem test_fnvByte :
    (after (.fnvByte 0x61) (fnvOn 0 .a .big 0x811C9DC5)).fnv.acc.toNat = 0xE40C292C ∧
    (after (.fnvByte 0x61) (fnvOn 0 .b .big 0x811C9DC5)).fnv.acc.toNat = 0x050C5D7E := by decide +kernel
theorem test_fnvByte_idle : statusOf (.fnvByte 0) State.reset = .sequence := by decide
theorem test_fnvDigest_orders :
    bytesOf .fnvDigest (fnvOn 0 .a .big 0xE40C292C) = some [0xE4, 0x0C, 0x29, 0x2C] ∧
    bytesOf .fnvDigest (fnvOn 0 .a .little 0xE40C292C) = some [0x2C, 0x29, 0x0C, 0xE4] := by decide +kernel
theorem test_fnvDigest_idle : statusOf .fnvDigest State.reset = .sequence := by decide

/-! ### CRC -/

/-- T[1] is the polynomial; T[255] of CRC-32 is in the table of 95_test_vectors.md. -/
theorem test_crcStart_table :
    valueOf (.crcRdtab 1) (crcOn 0) = some 0x04C11DB7 ∧ valueOf (.crcRdtab 255) (crcOn 0) = some 0xB1F740B4 := by
  decide +kernel
theorem test_crcStart_illegalWidth :
    let s := crcOn 0
    let t := after .crcStart { s with crc := { s.crc with ctrl := { s.crc.ctrl with width := 12 } } }
    t.last = .unsupportedConfig ∧ t.crc.phase = .idle ∧ t.crc.tvalid = false := by decide +kernel
/-- The example of 44_crc.md R224. -/
theorem test_crcByte : (after (.crcByte 0) (crcOn 0xFFFFFFFF)).crc.reg = 0x4E08BFB4 := by decide +kernel
theorem test_crcByte_idle : statusOf (.crcByte 0) State.reset = .sequence := by decide
/-- The digest of the one byte 0x00 (95_test_vectors.md). -/
theorem test_crcDigest :
    bytesOf .crcDigest (crcOn 0x4E08BFB4) = some [0xD2, 0x02, 0xEF, 0x8D] := by decide +kernel
theorem test_crcDigest_idle : statusOf .crcDigest State.reset = .sequence := by decide
theorem test_crcRdtab_invalid : statusOf (.crcRdtab 0) State.reset = .sequence := by decide

/-! ### SHA -/

theorem test_shaInit_fromFinal :
    (after .shaInit shaDone).sha.phase = .ready ∧ (after .shaInit shaDone).sha.h[7] = 0x0EB72DDC81C52CA2 := by
  decide
theorem test_shaByte :
    let u := (after (.shaByte 0x61) State.reset).sha
    u.cur = 1 ∧ u.lenLo = 8 ∧ u.buf[0] = 0x61 ∧ u.phase = .accum := by decide
/-- The 128th byte empties the buffer, and the length carries into the high half (R254, R255). -/
theorem test_shaByte_block :
    let u := (after (.shaByte 0) (shaAt 127 0xFFFFFFFFFFFFFFF8)).sha
    u.cur = 0 ∧ u.lenLo = 0 ∧ u.lenHi = 1 := by decide +kernel
/-- SHA-512/256 of the empty message (95_test_vectors.md). -/
theorem test_shaFinal_empty :
    (after .shaFinal State.reset).sha.h[0] = 0xC672B8D1EF56ED28 ∧
    (after .shaFinal State.reset).sha.phase = .final := by decide +kernel
theorem test_shaFinal_twice : statusOf .shaFinal shaDone = .sequence := by decide
theorem test_shaDigest :
    (bytesOf .shaDigest shaDone).map (·.length) = some 32 ∧
    (bytesOf .shaDigest shaDone).map (·.take 4) = some [0x22, 0x31, 0x21, 0x94] := by decide
theorem test_shaDigest_ready : statusOf .shaDigest State.reset = .sequence := by decide
theorem test_shaRdh :
    valueOf (.shaRdh 7) State.reset = some 0x0EB72DDC81C52CA2 ∧
    statusOf (.shaRdh 8) State.reset = .invalidArgument := by decide

/-! ### The multi-word engine -/

theorem test_mwLda :
    (after (.mwLda 31 0xABCDEF0112345678) State.reset).mw.a[31] = 0x12345678 ∧
    statusOf (.mwLda 32 0) State.reset = .invalidArgument := by decide
theorem test_mwLdb :
    (after (.mwLdb 0 0xABCDEF0112345678) State.reset).mw.b[0] = 0x12345678 ∧
    statusOf (.mwLdb 32 0) State.reset = .invalidArgument := by decide
/-- `(2^32 - 1)^2` truncated to one word is 1, and to two words 0xFFFFFFFE_00000001; words from L on stay. -/
theorem test_mwMul :
    ((after .mwMul (mwWith 1 [0xFFFFFFFF, 9] [0xFFFFFFFF])).mw.a.toList.take 2) = [1, 9] ∧
    ((after .mwMul (mwWith 2 [0xFFFFFFFF] [0xFFFFFFFF])).mw.a.toList.take 2) = [1, 0xFFFFFFFE] := by
  decide +kernel
theorem test_mwMul_badLength :
    statusOf .mwMul (mwWith 0 [] []) = .unsupportedConfig ∧
    statusOf .mwMul (mwWith 33 [] []) = .unsupportedConfig := by decide
theorem test_mwXorb : (after (.mwXorb 0x68) (mwWith 4 [0x811C9DC5] [])).mw.a[0] = 0x811C9DAD := by decide
theorem test_mwRda :
    valueOf (.mwRda 1) (mwWith 4 [1, 0xFFFFFFFF] [7]) = some 0xFFFFFFFF ∧
    statusOf (.mwRda 32) State.reset = .invalidArgument := by decide
theorem test_mwRdb :
    valueOf (.mwRdb 0) (mwWith 4 [1, 0xFFFFFFFF] [7]) = some 7 ∧
    statusOf (.mwRdb 32) State.reset = .invalidArgument := by decide

/-! ### The step -/

theorem test_step_illegal :
    step (withCommand 0x11000168 0) =
      .next { State.reset with last := .illegal, sticky := 1, response := some { status := .illegal, payload := .none } } := by
  rfl

/-! ### The host's side -/

/-- R110's and R111's examples. -/
theorem test_assemble :
    assembleLine "WRREG FNV_CFG, 0x100 ; comment".toList = some [{ cw := 0x04001000, op := 0x100 }] ∧
    assembleLine "EMIT crc, 8, 0x3132333435363738".toList =
      some [{ cw := 0x08130000, op := 0x3132333435363738 }] ∧
    assembleLine "FNV_FEED \"hi\"".toList =
      some [{ cw := 0x11000068, op := 0 }, { cw := 0x11000069, op := 0 }] ∧
    assembleLine "EMIT sha, 3, 0".toList = none := by decide +kernel
/-- A signed value as two's complement (R151): -2 in 2 bytes. -/
theorem test_scalarBits : scalarBits (.integer (.signed 1 (-2))) = { value := 0xFFFE, size := 1 } := by decide
/-- U+20AC in UTF-8. -/
theorem test_utf8 : utf8 [Char.ofNat 0x20AC] = [0xE2, 0x82, 0xAC] := by decide

/-! ### Witnesses: a state and operands that meet the hypotheses of each statement that has some -/

/-- A state with every unit running, one error recorded, and a command at the port. -/
def busy (cw : Word32) : State :=
  let s := after (.rdreg 0x02) (after (.shaByte 0x61) (after .crcStart (after .fnvStart State.reset)))
  { s with pending := [{ cw := cw, op := 0 }] }

/-- A state with a CRC width. -/
def crcWidthIs (width : BitVec 7) : State :=
  { State.reset with crc := { State.reset.crc with ctrl := { State.reset.crc.ctrl with width := width } } }

/-- A state with an FNV width code. -/
def fnvWidthIs (width : BitVec 3) : State :=
  { State.reset with fnv := { State.reset.fnv with cfg := { State.reset.fnv.cfg with width := width } } }

/-- EncodedCommandsDecode has no hypothesis; a word of format W and one of format E for the clause on OP. -/
theorem witness_DecodedCommandsEncodeBack :
    decode { cw := 0x04002100, op := 3 } = .ok (.wrreg 0x21 3) ∧ Opcode.wrreg.format = .w ∧
    decode { cw := 0x08210000, op := 5 } = .ok (.emit 2 1 5) ∧ Opcode.emit.format = .e :=
  ⟨by rfl, by rfl, by rfl, by rfl⟩
theorem witness_DecodeFollowsTheOpcodeTable :
    ((Opcode.fnvByte, 0x11000000, 0xFFFFFF00) ∈ opcodeRows ∧ (0x11000068 : Word32) &&& 0xFFFFFF00 = 0x11000000) ∧
    (∀ r ∈ opcodeRows, (0x11000168 : Word32) &&& r.2.2 ≠ r.2.1) ∧
    ∀ r ∈ opcodeRows, (0x05000000 : Word32) &&& r.2.2 ≠ r.2.1 := by decide
theorem witness_WorkedEncodings :
    (withCommand 0x11000168 9).pending = [{ cw := 0x11000168, op := 9 }] ∧
    (withCommand 0x05000000 9).pending = [{ cw := 0x05000000, op := 9 }] := by decide
theorem witness_StepRunsTheDecodedCommand :
    (withCommand 0x34000300 0).pending = [{ cw := 0x34000300, op := 0 }] ∧
    decode { cw := 0x34000300, op := 0 } = .ok (.shaRdh 3) := ⟨by rfl, by rfl⟩
theorem witness_StepWaitsForACommand : State.reset.pending = [] := by rfl
/-- A reserved opcode at the port; the ends of the reserved ranges; a must-be-zero bit that is set. -/
theorem witness_UndecodableCommandsAreIllegal :
    (withCommand 0x05FFFFFF 0).pending = [{ cw := 0x05FFFFFF, op := 0 }] ∧
    reservedOpc ((0x05FFFFFF#32).toNat / 2 ^ 24) := by
  unfold reservedOpc; decide
theorem witness_UndecodableCommandsAreIllegal_ranges :
    ∀ n ∈ [0x05, 0x07, 0x09, 0x0F, 0x13, 0x1F, 0x24, 0x2F, 0x35, 0x3F, 0x46, 0xFF], reservedOpc n := by
  unfold reservedOpc; decide
theorem witness_UndecodableCommandsAreIllegal_field :
    ∃ r ∈ opcodeRows, (0x11000168#32).toNat / 2 ^ 24 = r.2.1.toNat / 2 ^ 24 ∧
      (0x11000168#32) &&& r.2.2 ≠ r.2.1 := by decide
theorem witness_EveryCommandIsAnswered :
    (withCommand 0xFF000000 1).pending = { cw := 0xFF000000, op := 1 } :: [] := by rfl
/-- An ILLEGAL command, a failed FNV_START and a failed CRC_START. -/
theorem witness_ErrorsChangeOnlyTheRecord :
    (∃ t, step (withCommand 0x05000000 0) = .next t ∧ t.last ≠ .ok) ∧
    (∃ t, step { fnvWidthIs 7 with pending := [encode .fnvStart] } = .next t ∧ t.last ≠ .ok) ∧
    ∃ t, step { crcWidthIs 7 with pending := [encode .crcStart] } = .next t ∧ t.last ≠ .ok :=
  ⟨⟨_, rfl, by decide⟩, ⟨_, rfl, by decide⟩, ⟨_, rfl, by decide⟩⟩
theorem witness_LastAndStickyAreRecorded :
    (busy 0x01000000).pending = [{ cw := 0x01000000, op := 0 }] ∧
    (∃ t, step (busy 0x01000000) = .next t) ∧ (∃ t, step (busy 0x00000000) = .next t ∧ t.last = .ok) ∧
    ∃ t, step (busy 0x33000000) = .next t ∧ t.last ≠ .ok :=
  ⟨rfl, ⟨_, rfl⟩, ⟨_, rfl, by decide⟩, ⟨_, rfl, by decide⟩⟩
/-- Each cause of R291 at its bound, and a command in range. -/
theorem witness_InvalidArgumentCauses :
    (∀ i ∈ [Instr.info 5, .rdreg 0x02, .rdreg 0x41, .wrreg 0x00 0, .wrreg 0x32 0, .wrreg 0x33 0, .emit 3 0 0,
      .emit 0 4 0, .shaRdh 8, .mwLda 32 0, .mwLdb 32 0, .mwRda 32, .mwRdb 32],
      statusOf i State.reset = .invalidArgument) ∧
    (∃ t, exec (.info 5) State.reset = .next t) ∧ outOfRange (.info 5) ∧ outOfRange (.wrreg 0x32 0) ∧
    outOfRange (.emit 3 0 0) ∧ outOfRange (.emit 0 4 0) ∧ ¬ outOfRange (.info 4) ∧ ¬ outOfRange (.shaRdh 7) :=
  ⟨by decide, ⟨_, rfl⟩, by simp [outOfRange], by simp [outOfRange], by simp [outOfRange],
    by simp [outOfRange], by simp [outOfRange], by simp [outOfRange]⟩
theorem witness_UnsupportedConfigCauses :
    unsupported (fnvWidthIs 6) .fnvStart ∧ unsupported (crcWidthIs 7) .crcStart ∧
    unsupported (mwWith 0 [] []) .mwMul ∧ unsupported (mwWith 33 [] []) .mwMul ∧
    ¬ unsupported (fnvWidthIs 5) .fnvStart ∧ ¬ unsupported (crcWidthIs 8) .crcStart ∧
    ¬ unsupported (mwWith 32 [] []) .mwMul ∧ ∃ t, exec .fnvStart (fnvWidthIs 6) = .next t := by
  refine ⟨?_, ?_, ?_, ?_, ?_, ?_, ?_, ⟨_, rfl⟩⟩ <;>
    simp [unsupported, legalCrcWidth, fnvWidthIs, crcWidthIs, mwWith]
theorem witness_SequenceCauses :
    wrongPhase State.reset (.fnvByte 0) ∧ wrongPhase State.reset .fnvDigest ∧
    wrongPhase State.reset (.crcByte 0) ∧ wrongPhase State.reset .crcDigest ∧
    wrongPhase State.reset (.crcRdtab 0) ∧ wrongPhase shaDone (.shaByte 0) ∧ wrongPhase shaDone .shaFinal ∧
    wrongPhase State.reset .shaDigest ∧ wrongPhase State.reset (.emit 0 3 0) ∧
    wrongPhase State.reset (.emit 1 3 0) ∧ wrongPhase shaDone (.emit 2 3 0) ∧
    ¬ outOfRange (.emit 2 3 0) ∧ ¬ outOfRange (.crcRdtab 0) ∧ outOfRange (.emit 0 4 0) ∧
    ∃ t, exec (.emit 2 3 0) shaDone = .next t := by
  refine ⟨?_, ?_, ?_, ?_, ?_, ?_, ?_, ?_, ?_, ?_, ?_, ?_, ?_, ?_, ⟨_, rfl⟩⟩ <;>
    simp [wrongPhase, outOfRange, State.reset, shaDone]
theorem witness_StatusIsComposedFromTheState :
    ∃ t, exec (.info 5) State.reset = .next t ∧ t.last ≠ .ok := ⟨_, rfl, by decide⟩
theorem witness_WrregStoresUnderTheMask :
    [0x01, 0x10, 0x20, 0x21, 0x22, 0x23, 0x40].map writeMask =
      [some 0x1, some 0x117, some 0x137F, some 0xFFFFFFFFFFFFFFFF, some 0xFFFFFFFFFFFFFFFF,
       some 0xFFFFFFFFFFFFFFFF, some 0x3F] := by decide
theorem witness_ReservedAndReadOnlyRegistersAreRefused :
    (∀ n ∈ [0x02, 0x0F, 0x12, 0x1F, 0x28, 0x2F, 0x33, 0x3F, 0x41, 0xFF], reservedIndex n ∧ writeMask n = none) ∧
    ∀ n ∈ [0x00, 0x11, 0x24, 0x25, 0x26, 0x27, 0x30, 0x31, 0x32], writeMask n = none := by
  unfold reservedIndex; decide
theorem witness_EmitEqualsItsByteCommands :
    (0 : BitVec 4).toNat ≤ 3 ∧ (3 : BitVec 4).toNat ≤ 3 ∧ (fnvOn 0 .a .big 1).fnv.phase = .active ∧
    (crcOn 0).crc.phase = .active ∧ State.reset.sha.phase ≠ .final ∧ (shaAt 127 0).sha.phase ≠ .final := by
  decide +kernel
theorem witness_FnvByteMixesTheByte :
    (fnvOn 0 .a .big 0xFFFFFFFF).fnv.phase = .active ∧ (fnvParams? 0).isSome ∧ (fnvParams? 5).isSome ∧
    fnvParams? 6 = none := by decide
theorem witness_FnvWordDatapathAgrees :
    (fnvParams? 0).map (·.width) = some 32 ∧ (fnvOn 0 .b .big 0xFFFFFFFF).fnv.acc.toNat < 2 ^ 32 := by
  decide +kernel
theorem witness_FnvDigestReturnsTheAccumulator :
    (fnvOn 1 .a .little 7).fnv.phase = .active ∧ (fnvParams? 1).map (·.width) = some 64 := by decide
theorem witness_FnvHashesTheMessage : (fnvParams? State.reset.fnv.cfg.width).map (·.width) = some 32 := by decide
theorem witness_FnvDigestOrdersAreReversals :
    (fnvWidthIs 0).fnv.cfg.width.toNat ≤ 5 ∧ (fnvWidthIs 5).fnv.cfg.width.toNat ≤ 5 := by decide
theorem witness_CrcStartBuildsTheTable :
    legalCrcWidth (crcWidthIs 8).crc.ctrl.width.toNat ∧ legalCrcWidth (crcWidthIs 64).crc.ctrl.width.toNat := by
  unfold legalCrcWidth; decide
theorem witness_CrcStartRefusesOtherWidths :
    ¬ legalCrcWidth (crcWidthIs 0).crc.ctrl.width.toNat ∧ ¬ legalCrcWidth (crcWidthIs 65).crc.ctrl.width.toNat := by
  unfold legalCrcWidth; decide
theorem witness_CrcByteIsLongDivision :
    crcInv (crcOn 0x12345678).crc ∧ (crcOn 0x12345678).crc.phase = .active :=
  ⟨⟨by decide, fun _ => ⟨by decide, by decide, by decide, by decide, rfl⟩⟩, rfl⟩
theorem witness_CrcDigestFinalizesACopy :
    crcInv (crcOn 0x12345678).crc ∧ (crcOn 0x12345678).crc.phase = .active := witness_CrcByteIsLongDivision
theorem witness_CrcByteLooksUpTheTable :
    (crcOn 0x12345678).crc.phase = .active ∧ legalCrcWidth (crcOn 0x12345678).crc.actCtrl.width.toNat := by
  unfold legalCrcWidth; decide +kernel
theorem witness_CrcTableIsStable :
    (busy 0x21000080).pending = [{ cw := 0x21000080, op := 0 }] ∧ (∃ t, step (busy 0x21000080) = .next t) ∧
    decode { cw := 0x21000080, op := 0 } ≠ .ok .crcStart ∧ decode { cw := 0x21000080, op := 0 } ≠ .ok .reset :=
  ⟨rfl, ⟨_, rfl⟩, by decide, by decide⟩
theorem witness_ShaByteAppendsTheByte :
    (shaAt 126 0).sha.phase ≠ .final ∧ (shaAt 126 0).sha.cur.toNat < 127 ∧ (shaAt 127 0).sha.phase ≠ .final ∧
    ¬ (shaAt 127 0).sha.cur.toNat < 127 := by decide
theorem witness_ScheduleFollowsTheRecurrence :
    (15 < 16) ∧ 16 ≤ 16 ∧ 79 < 80 := by decide
/-- Cursor 111 pads to one block, cursor 112 to two. -/
theorem witness_ShaFinalCompressesThePadding :
    (shaAt 111 888).sha.phase ≠ .final ∧ (shaAt 111 888).sha.cur.toNat ≤ 111 ∧ zeroCount 111 = 0 ∧
    (shaAt 112 896).sha.phase ≠ .final ∧ ¬ (shaAt 112 896).sha.cur.toNat ≤ 111 ∧ zeroCount 112 = 127 := by decide
theorem witness_MwmulIsTruncatedMultiplication :
    2 ≤ ([1, 2, 3] : List Word32).length ∧ 2 ≤ ([5, 6] : List Word32).length ∧
    (0 : Nat) ≤ ([] : List Word32).length := by decide
theorem witness_MwMulWritesTheProduct :
    (1 ≤ (mwWith 1 [] []).mw.len.toNat ∧ (mwWith 32 [] []).mw.len.toNat ≤ 32) ∧
    (mwWith 0 [] []).mw.len.toNat = 0 ∧ 32 < (mwWith 33 [] []).mw.len.toNat := by decide
theorem witness_MwLoadsStoreOneWord : (31 : Byte).toNat < 32 ∧ 32 ≤ (32 : Byte).toNat := by decide
theorem witness_MwReadsReturnTheWord : (0 : Byte).toNat < 32 ∧ 32 ≤ (255 : Byte).toNat := by decide
theorem witness_PhasesChangeOnlyAtStarts :
    (∃ t, step (busy 0x10000000) = .next t ∧ t.last = .ok) ∧
    ∃ t, step { fnvWidthIs 6 with pending := [encode .fnvStart] } = .next t ∧ t.last ≠ .ok :=
  ⟨⟨_, rfl, by decide⟩, ⟨_, rfl, by decide⟩⟩
theorem witness_ReadsHaveNoSideEffects :
    readCommand .shaDigest ∧ (∃ t, exec .shaDigest shaDone = .next t) ∧ Instr.shaDigest ≠ .rdreg 0x00 :=
  ⟨trivial, ⟨_, rfl⟩, by decide⟩
theorem witness_RunningComputationsUseTheLatch :
    runningCommand (.crcByte 1) ∧ ∃ t, exec (.crcByte 1) (crcOn 5) = .next t := ⟨trivial, _, rfl⟩
theorem witness_UnitsAreIndependent :
    (∃ t, exec .shaFinal (busy 0) = .next t) ∧ (∃ t, exec .shaFinal { busy 0 with fnv := State.reset.fnv } = .next t) ∧
    (busy 0).sha = { busy 0 with fnv := State.reset.fnv }.sha := ⟨⟨_, rfl⟩, ⟨_, rfl⟩, rfl⟩
/-- A state with every unit running has the invariant, and it steps. -/
theorem witness_StepKeepsTheInvariant :
    stateInv (busy 0x12000000) ∧ ∃ t, step (busy 0x12000000) = .next t := by
  refine ⟨⟨?_, ?_, ?_, ?_, ?_⟩, _, rfl⟩
  · unfold fnvInv; decide +kernel
  · exact ⟨by decide, fun _ => ⟨by decide, by decide, by decide, by decide, rfl⟩⟩
  · unfold shaInv; decide +kernel
  · unfold stickyInv; decide +kernel
  · intro r h
    cases h
    decide +kernel

end Sys2Proof.Tests
end

section
/-! What one command can do: the inversion lemmas of `exec` and `step`, from which the statements about
LAST, STICKY, the phases and the invariant are derived without opening a command's meaning again. -/

namespace Sys2Proof.Machine

open Sys2Proof Sys2Proof.Claims

/-! ### How a command ends -/

theorem Status.stickyBit_eq_stickyMask (e : Status) : e.stickyBit = stickyMask e := by cases e <;> rfl

theorem State.raised_eq_errorAfter (s : State) (e : Status) : s.raised e = errorAfter s e := by
  simp only [State.raised, errorAfter, Status.stickyBit_eq_stickyMask]

/-! ### What a command leaves -/

/-- The commands that neither start an FNV or CRC computation nor end one: all but RESET, FNV_START, CRC_START. -/
def keepsPhases (i : Instr) : Prop := i ≠ .reset ∧ i ≠ .fnvStart ∧ i ≠ .crcStart

/-- The states that a command can leave, one constructor for each kind of change: nothing but the record
(`refused`, `answered`), everything (`reset`), one register, bytes fed to a unit that accepts them, the
two starts with their failures, the SHA unit, the MW unit. `exec_effect` ties it to `exec`. -/
inductive Effect (s : State) : Instr → State → Prop where
  | refused {i : Instr} {e : Status} (hi : keepsPhases i) (he : e ≠ .ok) : Effect s i (s.raised e)
  | answered {i : Instr} {p : Payload} (hi : keepsPhases i) : Effect s i (s.completed p)
  | reset : Effect s .reset (State.completed { State.reset with pending := s.pending } .none)
  | wrote {idx : Byte} {op : Word64} {r : Reg} (hr : regOf idx = some r) (hw : regWritable r = true) :
      Effect s (.wrreg idx op) ((s.writeReg r (op &&& regMask r)).completed .none)
  | fed {i : Instr} {u : EmitUnit} {bs : List Byte} (hi : keepsPhases i) (hu : unitAccepts s u = true) :
      Effect s i ((bs.foldl (feedUnit u) s).completed .none)
  | fnvStarted {p : FnvParams} (hp : fnvParams? s.fnv.cfg.width = some p) :
      Effect s .fnvStart (State.completed
        { s with fnv := { s.fnv with act := s.fnv.cfg, acc := p.offset, phase := .active } } .none)
  | fnvStartFailed (hp : fnvParams? s.fnv.cfg.width = none) :
      Effect s .fnvStart
        (State.raised { s with fnv := { s.fnv with phase := .idle } } .unsupportedConfig)
  | crcStarted (hw : crcWidthLegal s.crc.ctrl.width = true) :
      Effect s .crcStart (State.completed { s with crc := crcStarted s.crc } .none)
  | crcStartFailed (hw : ¬ crcWidthLegal s.crc.ctrl.width = true) :
      Effect s .crcStart
        (State.raised { s with crc := { s.crc with phase := .idle, tvalid := false } } .unsupportedConfig)
  | shaInit : Effect s .shaInit (State.completed { s with sha := shaFresh } .none)
  | shaFinal (hp : s.sha.phase ≠ .final) :
      Effect s .shaFinal (State.completed { s with sha := { shaPad s.sha with phase := .final } } .none)
  | mwStored {i : Instr} {m : MwUnit} (hi : keepsPhases i) :
      Effect s i (State.completed { s with mw := m } .none)

/-- Every command answers with a next state, and `Effect` lists what that state can be. -/
theorem exec_effect (i : Instr) (s : State) : ∃ t, exec i s = .next t ∧ Effect s i t := by
  cases i
  case nop => exact ⟨_, rfl, .answered ⟨nofun, nofun, nofun⟩⟩
  case reset => exact ⟨_, rfl, .reset⟩
  case shaInit => exact ⟨_, rfl, .shaInit⟩
  case mwXorb b => exact ⟨_, rfl, .mwStored ⟨nofun, nofun, nofun⟩⟩
  case info idx | rdreg idx | shaRdh idx | mwRda idx | mwRdb idx | fnvDigest | crcDigest =>
    simp only [exec, execInfo, execRdreg, execShaRdh, execMwRda, execMwRdb, execFnvDigest, execCrcDigest]
    split
    · exact ⟨_, rfl, .refused ⟨nofun, nofun, nofun⟩ nofun⟩
    · exact ⟨_, rfl, .answered ⟨nofun, nofun, nofun⟩⟩
  case crcRdtab idx =>
    simp only [exec, execCrcRdtab]
    split
    · exact ⟨_, rfl, .answered ⟨nofun, nofun, nofun⟩⟩
    · exact ⟨_, rfl, .refused ⟨nofun, nofun, nofun⟩ nofun⟩
  case shaDigest =>
    simp only [exec, execShaDigest]
    split
    · exact ⟨_, rfl, .answered ⟨nofun, nofun, nofun⟩⟩
    all_goals exact ⟨_, rfl, .refused ⟨nofun, nofun, nofun⟩ nofun⟩
  case wrreg idx op =>
    simp only [exec, execWrreg]
    split
    · exact ⟨_, rfl, .refused ⟨nofun, nofun, nofun⟩ nofun⟩
    · next r hr =>
      split
      · next hw => exact ⟨_, rfl, .wrote hr hw⟩
      · exact ⟨_, rfl, .refused ⟨nofun, nofun, nofun⟩ nofun⟩
  case emit unit sz op =>
    simp only [exec, execEmit]
    split
    · exact ⟨_, rfl, .refused ⟨nofun, nofun, nofun⟩ nofun⟩
    · split
      · exact ⟨_, rfl, .refused ⟨nofun, nofun, nofun⟩ nofun⟩
      · split
        · next hu => exact ⟨_, rfl, .fed ⟨nofun, nofun, nofun⟩ hu⟩
        · exact ⟨_, rfl, .refused ⟨nofun, nofun, nofun⟩ nofun⟩
  case fnvByte b =>
    simp only [exec, execFnvByte]
    split
    · exact ⟨_, rfl, .refused ⟨nofun, nofun, nofun⟩ nofun⟩
    · next hp => exact ⟨_, rfl, .fed (u := .fnv) (bs := [b]) ⟨nofun, nofun, nofun⟩ (by simp [unitAccepts, hp])⟩
  case crcByte b =>
    simp only [exec, execCrcByte]
    split
    · exact ⟨_, rfl, .refused ⟨nofun, nofun, nofun⟩ nofun⟩
    · next hp => exact ⟨_, rfl, .fed (u := .crc) (bs := [b]) ⟨nofun, nofun, nofun⟩ (by simp [unitAccepts, hp])⟩
  case shaByte b =>
    simp only [exec, execShaByte]
    split
    · exact ⟨_, rfl, .refused ⟨nofun, nofun, nofun⟩ nofun⟩
    all_goals
      next hp => exact ⟨_, rfl, .fed (u := .sha) (bs := [b]) ⟨nofun, nofun, nofun⟩ (by simp [unitAccepts, hp])⟩
  case shaFinal =>
    simp only [exec, execShaFinal]
    split
    · exact ⟨_, rfl, .refused ⟨nofun, nofun, nofun⟩ nofun⟩
    all_goals next hp => exact ⟨_, rfl, .shaFinal (by simp [hp])⟩
  case fnvStart =>
    simp only [exec, execFnvStart]
    split
    · next hp => exact ⟨_, rfl, .fnvStartFailed hp⟩
    · next hp => exact ⟨_, rfl, .fnvStarted hp⟩
  case crcStart =>
    simp only [exec, execCrcStart]
    split
    · next hw => exact ⟨_, rfl, .crcStarted hw⟩
    · next hw => exact ⟨_, rfl, .crcStartFailed hw⟩
  case mwLda idx op | mwLdb idx op | mwMul =>
    simp only [exec, execMwLda, execMwLdb, execMwMul]
    split
    · exact ⟨_, rfl, .refused ⟨nofun, nofun, nofun⟩ nofun⟩
    · exact ⟨_, rfl, .mwStored ⟨nofun, nofun, nofun⟩⟩

theorem Effect.of_exec {i : Instr} {s t : State} (h : exec i s = .next t) : Effect s i t := by
  obtain ⟨t', ht', heff⟩ := exec_effect i s
  rw [h] at ht'
  cases ht'
  exact heff

/-! ### The step -/

theorem step_of_nil {s : State} (h : s.pending = []) : step s = .next s := by
  simp only [step, State.takeCommand_nil s h]

theorem step_of_decode_error {s : State} {c : Command} {rest : List Command} {e : DecodeError}
    (hs : s.pending = c :: rest) (hd : decode c = .error e) :
    step s = State.raise { s with pending := rest } .illegal := by
  simp only [step, State.takeCommand_cons s c rest hs, hd]

theorem step_of_decode_ok {s : State} {c : Command} {rest : List Command} {i : Instr}
    (hs : s.pending = c :: rest) (hd : decode c = .ok i) :
    step s = exec i { s with pending := rest } := by
  simp only [step, State.takeCommand_cons s c rest hs, hd]

/-- A step that takes a command refuses it as ILLEGAL when it does not decode, and otherwise has an effect of
the decoded command (R130). -/
theorem step_cons_cases {s t : State} {c : Command} {rest : List Command} (hs : s.pending = c :: rest)
    (h : step s = .next t) :
    (∃ e, decode c = .error e ∧ t = State.raised { s with pending := rest } .illegal) ∨
      ∃ i, decode c = .ok i ∧ Effect { s with pending := rest } i t := by
  cases hd : decode c with
  | error e =>
    rw [step_of_decode_error hs hd] at h
    cases h
    exact .inl ⟨e, rfl, rfl⟩
  | ok i =>
    rw [step_of_decode_ok hs hd] at h
    exact .inr ⟨i, rfl, .of_exec h⟩

end Sys2Proof.Machine
end

section
/-! What feeding bytes to a unit leaves unchanged, and where the padding of a message ends
(41_canonicalizer.md R152, 45_sha512_256.md R257, R258). -/

namespace Sys2Proof.Machine

open Sys2Proof

/-! ### Bytes fed to a unit -/

theorem foldl_feedUnit_fnv (bs : List Byte) (s : State) :
    bs.foldl (feedUnit .fnv) s = { s with fnv := bs.foldl fnvFeed1 s.fnv } := by
  induction bs generalizing s with
  | nil => rfl
  | cons b bs ih => rw [List.foldl_cons, ih]; rfl

theorem foldl_feedUnit_crc (bs : List Byte) (s : State) :
    bs.foldl (feedUnit .crc) s = { s with crc := bs.foldl crcFeed1 s.crc } := by
  induction bs generalizing s with
  | nil => rfl
  | cons b bs ih => rw [List.foldl_cons, ih]; rfl

theorem foldl_feedUnit_sha (bs : List Byte) (s : State) :
    bs.foldl (feedUnit .sha) s = { s with sha := bs.foldl shaFeed1 s.sha } := by
  induction bs generalizing s with
  | nil => rfl
  | cons b bs ih => rw [List.foldl_cons, ih]; rfl

@[simp] theorem foldl_feedUnit_sticky (u : EmitUnit) (bs : List Byte) (s : State) :
    (bs.foldl (feedUnit u) s).sticky = s.sticky := by
  cases u <;> simp only [foldl_feedUnit_fnv, foldl_feedUnit_crc, foldl_feedUnit_sha]

@[simp] theorem foldl_fnvFeed1_phase (bs : List Byte) (u : FnvUnit) :
    (bs.foldl fnvFeed1 u).phase = u.phase :=
  List.foldlRecOn (motive := fun v => v.phase = u.phase) bs fnvFeed1 rfl
    fun v hv b _ => (fnvFeed1_phase v b).trans hv

@[simp] theorem foldl_crcFeed1_phase (bs : List Byte) (u : CrcUnit) :
    (bs.foldl crcFeed1 u).phase = u.phase :=
  List.foldlRecOn (motive := fun v => v.phase = u.phase) bs crcFeed1 rfl
    fun v hv b _ => (crcFeed1_phase v b).trans hv

@[simp] theorem foldl_feedUnit_fnv_phase (u : EmitUnit) (bs : List Byte) (s : State) :
    (bs.foldl (feedUnit u) s).fnv.phase = s.fnv.phase := by
  cases u <;> simp [foldl_feedUnit_fnv, foldl_feedUnit_crc, foldl_feedUnit_sha]

@[simp] theorem foldl_feedUnit_crc_phase (u : EmitUnit) (bs : List Byte) (s : State) :
    (bs.foldl (feedUnit u) s).crc.phase = s.crc.phase := by
  cases u <;> simp [foldl_feedUnit_fnv, foldl_feedUnit_crc, foldl_feedUnit_sha]

/-! ### The SHA buffer -/

/-- The buffer is zero at the cursor and above (R48). -/
def ShaUnit.zeroTail (u : ShaUnit) : Prop := ∀ (k : Nat) (h : k < 128), u.cur.toNat ≤ k → u.buf[k] = 0

/-- The cursor moves on by one modulo 128: its 7 bits wrap when the block is full (R48; log entry 7). -/
@[simp] theorem shaPad1_cur (u : ShaUnit) (b : Byte) : (shaPad1 u b).cur = u.cur + 1 := by
  rcases Nat.lt_or_ge u.cur.toNat 127 with h | h
  · rw [shaPad1_of_lt u b h]
  · have hlast : u.cur.toNat = 127 := by omega
    rw [shaPad1_of_last u b hlast, BitVec.eq_of_toNat_eq (y := 127#7) hlast]
    rfl

theorem zeroTail_shaPad1 {u : ShaUnit} (b : Byte) (hu : u.zeroTail) : (shaPad1 u b).zeroTail := by
  intro k hk hcur
  rcases Nat.lt_or_ge u.cur.toNat 127 with h | h
  · rw [shaPad1_cur] at hcur
    have hlt : u.cur.toNat < k := by bv_omega
    simp only [shaPad1_of_lt u b h, Vector.getElem_set_ne _ _ (Nat.ne_of_lt hlt)]
    exact hu k hk (Nat.le_of_lt hlt)
  · simp only [shaPad1_of_last u b (by omega), Vector.getElem_replicate]

/-! ### Padding -/

/-- What one padded byte keeps, the zeros of the padding keep. -/
theorem shaPadZeros_keeps {P : ShaUnit → Prop} (hP : ∀ u b, P u → P (shaPad1 u b)) (fuel : Nat)
    {u : ShaUnit} (hu : P u) : P (shaPadZeros fuel u) := by
  induction fuel generalizing u with
  | zero => exact hu
  | succ fuel ih =>
    unfold shaPadZeros
    split
    · exact hu
    · exact ih (hP u _ hu)

/-- What one padded byte keeps, the whole padding keeps. -/
theorem shaPad_keeps {P : ShaUnit → Prop} (hP : ∀ u b, P u → P (shaPad1 u b)) {u : ShaUnit} (hu : P u) :
    P (shaPad u) :=
  List.foldlRecOn _ _ (shaPadZeros_keeps hP 128 (hP u _ hu)) fun v hv b _ => hP v b hv

theorem zeroTail_shaPad {u : ShaUnit} (hu : u.zeroTail) : (shaPad u).zeroTail :=
  shaPad_keeps (fun _ b h => zeroTail_shaPad1 b h) hu

@[simp] theorem shaPad_lenLo (u : ShaUnit) : (shaPad u).lenLo = u.lenLo :=
  shaPad_keeps (P := fun v => v.lenLo = u.lenLo) (fun v b h => (shaPad1_lenLo v b).trans h) rfl

theorem foldl_shaPad1_cur (bs : List Byte) (u : ShaUnit) :
    (bs.foldl shaPad1 u).cur = u.cur + BitVec.ofNat 7 bs.length := by
  induction bs generalizing u with
  | nil => simp
  | cons b bs ih =>
    rw [List.foldl_cons, ih, shaPad1_cur, List.length_cons]
    bv_omega

/-- With enough fuel for the distance to 112 modulo 128, the zeros bring the cursor to 112 (R258). -/
theorem shaPadZeros_cur {fuel : Nat} {u : ShaUnit} (h : (112 - u.cur).toNat ≤ fuel) :
    (shaPadZeros fuel u).cur = 112 := by
  induction fuel generalizing u with
  | zero =>
    change u.cur = 112
    bv_omega
  | succ fuel ih =>
    unfold shaPadZeros
    split
    · assumption
    · next hne =>
      refine ih ?_
      rw [shaPad1_cur]
      bv_omega

/-- Padding ends on a full block, so the cursor is back at 0 (R258). -/
@[simp] theorem shaPad_cur (u : ShaUnit) : (shaPad u).cur = 0 := by
  have hzeros : (shaPadZeros 128 (shaPad1 u 0x80)).cur = 112 := shaPadZeros_cur (by omega)
  have hlen : (beBytes 8 u.lenHi ++ beBytes 8 u.lenLo).length = 16 := by simp
  rw [shaPad, foldl_shaPad1_cur, hzeros, hlen]
  rfl

end Sys2Proof.Machine
end

section
/-! The invariant of the units, kept by every effect of a command (10_state.md R38, R45, R46, R48, R50, R52,
R55). -/

namespace Sys2Proof.Machine

open Sys2Proof Sys2Proof.Claims

/-! ### The FNV unit -/

/-- A supported width code is at most 5, its width holds a byte, and its offset basis lies below `2^W` (R191). -/
theorem fnvParams?_bounds {c : BitVec 3} {p : FnvParams} (h : fnvParams? c = some p) :
    c.toNat ≤ 5 ∧ 8 ≤ p.width ∧ p.offset.toNat < 2 ^ p.width := by
  unfold fnvParams? at h
  split at h
  case h_7 => cases h
  all_goals
    next hc =>
      cases h
      exact ⟨by omega, by decide, by decide +kernel⟩

theorem exists_fnvParams? {c : BitVec 3} (h : c.toNat ≤ 5) : ∃ p, fnvParams? c = some p := by
  unfold fnvParams?
  interval_cases c.toNat <;> exact ⟨_, rfl⟩

theorem fnvParams_of_some {c : BitVec 3} {p : FnvParams} (h : fnvParams? c = some p) : fnvParams c = p := by
  rw [fnvParams, h, Option.getD_some]

theorem fnvInv_fnvFeed1 {u : FnvUnit} (b : Byte) (hu : fnvInv u) : fnvInv (fnvFeed1 u b) := by
  intro hactive
  rw [fnvFeed1_phase] at hactive
  obtain ⟨hwidth, -⟩ := hu hactive
  obtain ⟨p, hp⟩ := exists_fnvParams? hwidth
  obtain ⟨-, hbyte, -⟩ := fnvParams?_bounds hp
  rw [fnvFeed1_act]
  refine ⟨hwidth, ?_⟩
  cases hmix : u.act.mix with
  | a =>
    simp only [fnvFeed1, hmix]
    exact keepLow_lt _ _
  | b =>
    have hb : (b.setWidth 1024).toNat < 2 ^ p.width := by
      rw [BitVec.toNat_setWidth_of_le (by decide)]
      exact Nat.lt_of_lt_of_le b.isLt (Nat.pow_le_pow_right (by decide) hbyte)
    simp only [fnvFeed1, hmix, BitVec.toNat_xor, fnvParams_of_some hp]
    exact Nat.xor_lt_two_pow (keepLow_lt _ _) hb

theorem Effect.fnvInv_next {s t : State} {i : Instr} (h : Effect s i t) (hs : fnvInv s.fnv) : fnvInv t.fnv := by
  cases h with
  | reset => exact nofun
  | wrote => simpa [fnvInv] using hs
  | @fed _ u bs _ _ =>
    cases u with
    | fnv =>
      simp only [State.completed_fnv, foldl_feedUnit_fnv]
      exact List.foldlRecOn bs fnvFeed1 hs fun v hv b _ => fnvInv_fnvFeed1 b hv
    | crc => simpa only [State.completed_fnv, foldl_feedUnit_crc] using hs
    | sha => simpa only [State.completed_fnv, foldl_feedUnit_sha] using hs
  | fnvStarted hp =>
    obtain ⟨hwidth, -, hoffset⟩ := fnvParams?_bounds hp
    intro _
    simp only [State.completed_fnv, fnvParams_of_some hp]
    exact ⟨hwidth, hoffset⟩
  | fnvStartFailed => exact nofun
  | refused | answered | crcStarted | crcStartFailed | shaInit | shaFinal | mwStored => exact hs

/-! ### The CRC unit -/

theorem crcBit_lt {poly : Word64} {w : Nat} (r : Word64) (hp : poly.toNat < 2 ^ w) :
    (crcBit poly w r).toNat < 2 ^ w := by
  unfold crcBit
  split
  · rw [BitVec.toNat_xor]
    exact Nat.xor_lt_two_pow (keepLow_lt _ _) hp
  · exact keepLow_lt _ _

theorem crcTable_getElem_lt {poly : Word64} {w : Nat} (hp : poly.toNat < 2 ^ w) (k : Nat) (hk : k < 256) :
    ((crcTable poly w)[k]).toNat < 2 ^ w := by
  rw [crcTable, tabulate_getElem]
  exact crcBit_lt _ hp

theorem crcInv_crcFeed1 {u : CrcUnit} (b : Byte) (hu : crcInv u) : crcInv (crcFeed1 u b) := by
  obtain ⟨hphase, hvalid⟩ := hu
  refine ⟨hphase, fun ht => ?_⟩
  obtain ⟨hwidth, hpoly, hxorout, -, htable⟩ := hvalid ht
  refine ⟨hwidth, hpoly, hxorout, ?_, htable⟩
  simp only [crcFeed1, BitVec.toNat_xor, htable]
  exact Nat.xor_lt_two_pow (keepLow_lt _ _) (crcTable_getElem_lt hpoly _ _)

theorem crcInv_crcStarted {u : CrcUnit} (hw : crcWidthLegal u.ctrl.width = true) : crcInv (crcStarted u) :=
  ⟨⟨fun _ => rfl, fun _ => rfl⟩, fun _ => ⟨hw, keepLow_lt _ _, keepLow_lt _ _, keepLow_lt _ _, rfl⟩⟩

theorem Effect.crcInv_next {s t : State} {i : Instr} (h : Effect s i t) (hs : crcInv s.crc) : crcInv t.crc := by
  cases h with
  | reset => exact ⟨⟨nofun, nofun⟩, nofun⟩
  | wrote => simpa [crcInv] using hs
  | @fed _ u bs _ _ =>
    cases u with
    | fnv => simpa only [State.completed_crc, foldl_feedUnit_fnv] using hs
    | crc =>
      simp only [State.completed_crc, foldl_feedUnit_crc]
      exact List.foldlRecOn bs crcFeed1 hs fun v hv b _ => crcInv_crcFeed1 b hv
    | sha => simpa only [State.completed_crc, foldl_feedUnit_sha] using hs
  | crcStarted hw => exact crcInv_crcStarted hw
  | crcStartFailed => exact ⟨⟨nofun, nofun⟩, nofun⟩
  | refused | answered | fnvStarted | fnvStartFailed | shaInit | shaFinal | mwStored => exact hs

/-! ### The SHA unit -/

theorem shaInv_shaFresh : shaInv shaFresh :=
  ⟨fun _ => rfl, nofun, nofun, rfl, fun _ _ _ => Vector.getElem_replicate ..⟩

/-- While the unit accepts input, the cursor is the number of message bytes modulo 128 (R56). -/
theorem shaInv.cur_eq {u : ShaUnit} (hu : shaInv u) (hp : u.phase ≠ .final) :
    u.cur.toNat = u.lenLo.toNat / 8 % 128 := by
  obtain ⟨hready, haccum, -⟩ := hu
  cases h : u.phase with
  | ready => rw [hready h]; rfl
  | accum => exact haccum h
  | final => exact absurd h hp

theorem shaInv_shaFeed1 {u : ShaUnit} (b : Byte) (hu : shaInv u) (hp : u.phase ≠ .final) :
    shaInv (shaFeed1 u b) := by
  have hcur := hu.cur_eq hp
  obtain ⟨-, -, -, hbytes, htail⟩ := hu
  have hlen : (shaFeed1 u b).lenLo.toNat = (u.lenLo.toNat + 8) % 2 ^ 64 := by simp [lenAdd]
  have hlt := u.lenLo.isLt
  refine ⟨nofun, fun _ => ?_, nofun, by omega, ?_⟩
  · rw [hlen, shaFeed1_cur, shaPad1_cur, BitVec.toNat_add, hcur]
    change (_ + 1) % 128 = _
    omega
  · exact zeroTail_shaPad1 (u := lenAdd u 8) b htail

/-- FINAL asks only for the cursor at 0, a length of whole bytes and an empty buffer. -/
theorem shaInv_final {u : ShaUnit} (hcur : u.cur = 0) (hbytes : u.lenLo.toNat % 8 = 0) (htail : u.zeroTail) :
    shaInv { u with phase := .final } :=
  ⟨nofun, nofun, fun _ => hcur, hbytes, htail⟩

theorem shaInv_shaPad_final {u : ShaUnit} (hu : shaInv u) : shaInv { shaPad u with phase := .final } := by
  obtain ⟨-, -, -, hbytes, htail⟩ := hu
  exact shaInv_final (shaPad_cur u) ((shaPad_lenLo u).symm ▸ hbytes) (zeroTail_shaPad htail)

theorem Effect.shaInv_next {s t : State} {i : Instr} (h : Effect s i t) (hs : shaInv s.sha) : shaInv t.sha := by
  cases h with
  | reset | shaInit => exact shaInv_shaFresh
  | wrote => rwa [State.completed_sha, State.writeReg_sha]
  | @fed _ u bs _ hu =>
    cases u with
    | fnv => simpa only [State.completed_sha, foldl_feedUnit_fnv] using hs
    | crc => simpa only [State.completed_sha, foldl_feedUnit_crc] using hs
    | sha =>
      simp only [State.completed_sha, foldl_feedUnit_sha]
      exact (List.foldlRecOn (motive := fun v => shaInv v ∧ v.phase ≠ .final) bs shaFeed1
        ⟨hs, of_decide_eq_true hu⟩ fun v hv b _ => ⟨shaInv_shaFeed1 b hv.1 hv.2, nofun⟩).1
  | shaFinal => exact shaInv_shaPad_final hs
  | refused | answered | fnvStarted | fnvStartFailed | crcStarted | crcStartFailed | mwStored => exact hs

/-! ### The record: LAST, STICKY and the response -/

/-- The response carries LAST's status, with no payload unless it is OK (R38, R105). -/
theorem Effect.response_eq {s t : State} {i : Instr} (h : Effect s i t) :
    ∃ p, t.response = some { status := t.last, payload := p } ∧ (t.last ≠ .ok → p = .none) := by
  cases h with
  | refused | fnvStartFailed | crcStartFailed => exact ⟨_, rfl, fun _ => rfl⟩
  | answered | reset | wrote | fed | fnvStarted | crcStarted | shaInit | shaFinal | mwStored =>
    exact ⟨_, rfl, fun hlast => absurd rfl hlast⟩

/-- STICKY gains the bit of LAST, which is none for OK, and RESET clears it (R38). -/
theorem Effect.sticky_eq {s t : State} {i : Instr} (h : Effect s i t) :
    t.sticky = if i = .reset then 0 else s.sticky ||| stickyMask t.last := by
  cases h with
  | reset => rfl
  | refused hi => simp [hi.1, Status.stickyBit_eq_stickyMask]
  | answered hi | mwStored hi | fed hi => simp [hi.1, stickyMask]
  | wrote | fnvStarted | crcStarted | shaInit | shaFinal => simp [stickyMask]
  | fnvStartFailed | crcStartFailed => simp [Status.stickyBit_eq_stickyMask]

theorem stickyInv_raised (s : State) (e : Status) : stickyInv (s.raised e) := by
  intro _
  ext k hk
  simp +contextual

theorem stickyInv_of_ok {s : State} (h : s.last = .ok) : stickyInv s := fun hlast => absurd h hlast

theorem Effect.stickyInv_next {s t : State} {i : Instr} (h : Effect s i t) : stickyInv t := by
  cases h with
  | refused | fnvStartFailed | crcStartFailed => exact stickyInv_raised _ _
  | answered | reset | wrote | fed | fnvStarted | crcStarted | shaInit | shaFinal | mwStored =>
    exact stickyInv_of_ok rfl

theorem Effect.responseInv_next {s t : State} {i : Instr} (h : Effect s i t) : responseInv t := by
  obtain ⟨p, hresponse, hpayload⟩ := h.response_eq
  intro r hr
  rw [hresponse] at hr
  cases hr
  exact ⟨rfl, hpayload⟩

theorem responseInv_raised (s : State) (e : Status) : responseInv (s.raised e) := by
  intro r hr
  cases hr
  exact ⟨rfl, fun _ => rfl⟩

/-! ### The step -/

theorem Effect.stateInv_next {s t : State} {i : Instr} (h : Effect s i t) (hs : stateInv s) : stateInv t := by
  obtain ⟨hfnv, hcrc, hsha, -, -⟩ := hs
  exact ⟨h.fnvInv_next hfnv, h.crcInv_next hcrc, h.shaInv_next hsha, h.stickyInv_next, h.responseInv_next⟩

theorem stateInv_raised {s : State} (e : Status) (hs : stateInv s) : stateInv (s.raised e) := by
  obtain ⟨hfnv, hcrc, hsha, -, -⟩ := hs
  exact ⟨hfnv, hcrc, hsha, stickyInv_raised s e, responseInv_raised s e⟩

/-- Settles O59: a step that takes a command raises ILLEGAL or has an effect of the command, and each unit's
invariant is kept by every effect. -/
theorem stepKeepsTheInvariant : Obligations.StepKeepsTheInvariant := by
  intro s t hs h
  cases hp : s.pending with
  | nil =>
    rw [step_of_nil hp] at h
    cases h
    exact hs
  | cons c rest =>
    have htaken : stateInv { s with pending := rest } := hs
    rcases step_cons_cases hp h with ⟨e, -, rfl⟩ | ⟨i, -, heff⟩
    · exact stateInv_raised .illegal htaken
    · exact heff.stateInv_next htaken

end Sys2Proof.Machine
end

section
/-! The register words as the numbers that R37, R41 and R43 lay out, and one rule for reading a register
after a write to the same and to another one (10_state.md R35, R36). -/

namespace Sys2Proof.Machine

open Sys2Proof Sys2Proof.Claims

/-! ### Words composed from fields -/

theorem toNat_append_eq {m n : Nat} (x : BitVec m) (y : BitVec n) :
    (x ++ y).toNat = x.toNat * 2 ^ n + y.toNat := by
  rw [BitVec.toNat_append, ← Nat.shiftLeft_add_eq_or_of_lt y.isLt, Nat.shiftLeft_eq]

@[simp] theorem Status.code_toNat (e : Status) : e.code.toNat = statusCode e := by cases e <;> rfl

@[simp] theorem Phase.code_toNat (p : Phase) : p.code.toNat = phaseCode p := by cases p <;> rfl

@[simp] theorem ShaPhase.code_toNat (p : ShaPhase) : p.code.toNat = shaPhaseCode p := by cases p <;> rfl

@[simp] theorem orderBit_toNat (o : ByteOrder) : (orderBit o).toNat = orderCode o := by cases o <;> rfl

@[simp] theorem mixBit_toNat (m : Mixing) : (mixBit m).toNat = mixCode m := by cases m <;> rfl

theorem statusWord_toNat (s : State) : (statusWord s).toNat = statusNumber s := by
  simp only [statusWord, toNat_append_eq, statusNumber, Status.code_toNat, Phase.code_toNat,
    ShaPhase.code_toNat, BitVec.toNat_ofBool, BitVec.toNat_ofNat]
  omega

theorem canonWord_toNat (o : ByteOrder) : (canonWord o).toNat = orderCode o := by
  simp only [canonWord, toNat_append_eq, orderBit_toNat, BitVec.toNat_ofNat]
  omega

theorem fnvCfgWord_toNat (c : FnvCfg) : (fnvCfgWord c).toNat = fnvCfgNumber c := by
  simp only [fnvCfgWord, toNat_append_eq, fnvCfgNumber, orderBit_toNat, mixBit_toNat, BitVec.toNat_ofNat]
  omega

theorem crcCtrlWord_toNat (c : CrcCtrl) : (crcCtrlWord c).toNat = crcCtrlNumber c := by
  simp only [crcCtrlWord, toNat_append_eq, crcCtrlNumber, orderBit_toNat, BitVec.toNat_ofBool,
    BitVec.toNat_ofNat]
  omega

/-- Every field of FNV_CFG lies below bit 9 (R41). -/
theorem fnvCfgNumber_lt (c : FnvCfg) : fnvCfgNumber c < 2 ^ 9 := by
  have hwidth := c.width.isLt
  have hmix := (mixBit c.mix).isLt
  have horder := (orderBit c.order).isLt
  rw [mixBit_toNat] at hmix
  rw [orderBit_toNat] at horder
  unfold fnvCfgNumber
  omega

/-- Every field of CRC_CTRL lies below bit 13 (R43). -/
theorem crcCtrlNumber_lt (c : CrcCtrl) : crcCtrlNumber c < 2 ^ 13 := by
  have hwidth := c.width.isLt
  have hrefin := c.refin.toNat_lt
  have hrefout := c.refout.toNat_lt
  have horder := (orderBit c.order).isLt
  rw [orderBit_toNat] at horder
  unfold crcCtrlNumber
  omega

/-- Every field of STATUS lies below bit 25 (R37). -/
theorem statusNumber_lt (s : State) : statusNumber s < 2 ^ 25 := by
  have hlast := s.last.code.isLt
  have hsticky := s.sticky.isLt
  have hfnv := s.fnv.phase.code.isLt
  have hcrc := s.crc.phase.code.isLt
  have hsha := s.sha.phase.code.isLt
  have hvalid := s.crc.tvalid.toNat_lt
  simp only [Status.code_toNat, Phase.code_toNat, ShaPhase.code_toNat] at hlast hfnv hcrc hsha
  unfold statusNumber
  omega

theorem statusNumber_testBit_sticky (s : State) {k : Nat} (hk : k < 4) :
    (statusNumber s).testBit (8 + k) = s.sticky.getLsbD k := by
  rw [← statusWord_toNat, BitVec.testBit_toNat]
  simp only [statusWord, BitVec.getLsbD_append]
  have h1 : ¬ 8 + k < 4 := by omega
  have h2 : ¬ 8 + k - 4 < 4 := by omega
  have h3 : 8 + k - 4 - 4 < 4 := by omega
  rw [if_neg h1, if_neg h2, if_pos h3]
  congr 1
  omega

/-! ### Registers by index -/

/-- The register at an index (R35), on numbers; `regOf` reads it at a byte. -/
def regAt (n : Nat) : Option Reg :=
  match n with
  | 0x00 => some .status
  | 0x01 => some .canonCfg
  | 0x10 => some .fnvCfg
  | 0x11 => some .fnvAct
  | 0x20 => some .crcCtrl
  | 0x21 => some .crcPoly
  | 0x22 => some .crcInit
  | 0x23 => some .crcXorout
  | 0x24 => some .crcReg
  | 0x25 => some .crcActCtrl
  | 0x26 => some .crcActPoly
  | 0x27 => some .crcActXorout
  | 0x30 => some .shaLenLo
  | 0x31 => some .shaLenHi
  | 0x32 => some .shaCur
  | 0x40 => some .mwCfg
  | _ => none

/-- The index of a register (R35). -/
def Reg.index : Reg → Nat
  | .status => 0x00
  | .canonCfg => 0x01
  | .fnvCfg => 0x10
  | .fnvAct => 0x11
  | .crcCtrl => 0x20
  | .crcPoly => 0x21
  | .crcInit => 0x22
  | .crcXorout => 0x23
  | .crcReg => 0x24
  | .crcActCtrl => 0x25
  | .crcActPoly => 0x26
  | .crcActXorout => 0x27
  | .shaLenLo => 0x30
  | .shaLenHi => 0x31
  | .shaCur => 0x32
  | .mwCfg => 0x40

theorem regOf_eq_regAt (idx : Byte) : regOf idx = regAt idx.toNat := rfl

theorem eq_index_of_regAt {n : Nat} {r : Reg} (h : regAt n = some r) : n = r.index := by
  unfold regAt at h
  split at h <;> cases h <;> rfl

theorem regAt_of_reservedIndex {n : Nat} (h : reservedIndex n) : regAt n = none := by
  refine Option.eq_none_iff_forall_ne_some.mpr fun r hr => ?_
  rw [eq_index_of_regAt hr] at h
  cases r <;> simp [reservedIndex, Reg.index] at h

theorem registerNumber_eq (s : State) (n : Nat) :
    registerNumber s n = (regAt n).map fun r => (s.readReg r).toNat := by
  unfold registerNumber regAt
  split <;> simp [State.readReg, statusWord_toNat, canonWord_toNat, fnvCfgWord_toNat, crcCtrlWord_toNat,
    BitVec.toNat_setWidth_of_le, -BitVec.toNat_setWidth]

theorem writeMask_eq (n : Nat) :
    writeMask n = (regAt n).bind fun r => if regWritable r then some (regMask r) else none := by
  unfold regAt
  split
  case h_17 => unfold writeMask; split <;> simp_all
  all_goals rfl

/-! ### Reading after a write -/

theorem orderBit_orderOf (b : Bool) : orderBit (orderOf b) = BitVec.ofBool b := by cases b <;> rfl

theorem mixBit_mixOf (b : Bool) : mixBit (mixOf b) = BitVec.ofBool b := by cases b <;> rfl

/-- Below a bound on the word and the mask, a masked word is known by its bits. -/
theorem eq_and_of_low_bits {x v m : Word64} {n : Nat} (hx : x.toNat < 2 ^ n) (hm : m.toNat < 2 ^ n)
    (h : ∀ i < n, x.getLsbD i = (v &&& m).getLsbD i) : x = v &&& m := by
  apply BitVec.eq_of_getLsbD_eq
  intro i _
  rcases Nat.lt_or_ge i n with hi | hi
  · exact h i hi
  · have hpow : 2 ^ n ≤ 2 ^ i := Nat.pow_le_pow_right (by decide) hi
    rw [BitVec.getLsbD_and, ← BitVec.testBit_toNat x, ← BitVec.testBit_toNat m,
      Nat.testBit_lt_two_pow (hx.trans_le hpow), Nat.testBit_lt_two_pow (hm.trans_le hpow), Bool.and_false]

/-- The field of CANON_CFG is stored where its mask has the bit, and so are those of the other three words: the word
of the stored fields is the value under the mask (R36, R40). -/
theorem canonWord_canonOf (v : Word64) : canonWord (canonOf v) = v &&& 0x1 := by
  have hmask : v.toNat &&& 1 = v.toNat % 2 := Nat.and_two_pow_sub_one_eq_mod v.toNat 1
  apply BitVec.eq_of_toNat_eq
  rw [BitVec.toNat_and, canonWord, canonOf, orderBit_orderOf, toNat_append_eq]
  rcases Nat.mod_two_eq_zero_or_one v.toNat with hbit | hbit <;>
    simp [hmask, hbit, BitVec.getElem_eq_testBit_toNat, Nat.testBit_zero]

theorem fnvCfgWord_fnvCfgOf (v : Word64) : fnvCfgWord (fnvCfgOf v) = v &&& 0x117 := by
  refine eq_and_of_low_bits (fnvCfgWord_toNat _ ▸ fnvCfgNumber_lt _) (by decide) fun i hi => ?_
  simp only [fnvCfgWord, fnvCfgOf, orderBit_orderOf, mixBit_mixOf, BitVec.getLsbD_append,
    BitVec.getLsbD_and, BitVec.getLsbD_extractLsb']
  interval_cases i <;> simp

theorem crcCtrlWord_crcCtrlOf (v : Word64) : crcCtrlWord (crcCtrlOf v) = v &&& 0x137F := by
  refine eq_and_of_low_bits (crcCtrlWord_toNat _ ▸ crcCtrlNumber_lt _) (by decide) fun i hi => ?_
  simp only [crcCtrlWord, crcCtrlOf, orderBit_orderOf, BitVec.getLsbD_append, BitVec.getLsbD_and,
    BitVec.getLsbD_extractLsb']
  interval_cases i <;> simp

theorem mwLenOf_setWidth (v : Word64) : (mwLenOf v).setWidth 64 = v &&& 0x3F := by
  have hmask : v.toNat &&& 63 = v.toNat % 64 := Nat.and_two_pow_sub_one_eq_mod v.toNat 6
  apply BitVec.eq_of_toNat_eq
  rw [BitVec.toNat_and, BitVec.toNat_setWidth_of_le (by decide), mwLenOf, BitVec.extractLsb'_toNat]
  simpa using hmask.symm

/-- A read/write register reads as what was written under its mask (R36). -/
theorem readReg_writeReg_same (s : State) {r : Reg} (hw : regWritable r = true) (v : Word64) :
    (s.writeReg r v).readReg r = v &&& regMask r := by
  cases r with
  | canonCfg => exact canonWord_canonOf v
  | fnvCfg => exact fnvCfgWord_fnvCfgOf v
  | crcCtrl => exact crcCtrlWord_crcCtrlOf v
  | mwCfg => exact mwLenOf_setWidth v
  | crcPoly | crcInit | crcXorout => exact BitVec.and_allOnes.symm
  | status | fnvAct | crcReg | crcActCtrl | crcActPoly | crcActXorout | shaLenLo | shaLenHi | shaCur => cases hw

/-- Every other register reads as before (R36). -/
theorem readReg_writeReg_of_ne (s : State) {r r' : Reg} (hne : r' ≠ r) (v : Word64) :
    (s.writeReg r v).readReg r' = s.readReg r' := by
  cases r
  all_goals cases r'
  case canonCfg.canonCfg | fnvCfg.fnvCfg | crcCtrl.crcCtrl | crcPoly.crcPoly | crcInit.crcInit |
      crcXorout.crcXorout | mwCfg.mwCfg => exact absurd rfl hne
  all_goals rfl

end Sys2Proof.Machine
end

section
/-! What is left of the statements about the state (10_state.md): LAST, STICKY and STATUS (R37, R38), the
registers (R35, R36), the phases (R51, R53) and the empty port (R32). -/

namespace Sys2Proof.Machine

open Sys2Proof Sys2Proof.Claims

/-! ### LAST, STICKY and STATUS -/

/-- RDREG of STATUS returns the word as it stood before this command's own update (R38). -/
theorem exec_rdreg_status (s : State) :
    exec (.rdreg 0x00) s = .next (okAfter s (.value (BitVec.ofNat 64 (statusNumber s)))) := by
  rw [← statusWord_toNat, BitVec.ofNat_toNat, BitVec.setWidth_eq]
  rfl

/-- Settles O10: the record of every effect of a command, and of a word that does not decode. -/
theorem lastAndStickyAreRecorded : Obligations.LastAndStickyAreRecorded := by
  refine ⟨fun s t c rest hp h => ?_, exec_rdreg_status⟩
  rcases step_cons_cases hp h with ⟨e, hd, rfl⟩ | ⟨i, hd, heff⟩
  · exact ⟨⟨_, rfl⟩, by simp [hd, Status.stickyBit_eq_stickyMask]⟩
  · obtain ⟨p, hresponse, -⟩ := heff.response_eq
    simp only [hd, Except.ok.injEq]
    exact ⟨⟨p, hresponse⟩, heff.sticky_eq⟩

/-- The sticky bit of a failing status is bit `c - 1` of STICKY (R37). -/
theorem stickyBit_getLsbD {e : Status} (he : e ≠ .ok) : e.stickyBit.getLsbD (statusCode e - 1) = true := by
  cases e with
  | ok => exact absurd rfl he
  | illegal | invalidArgument | unsupportedConfig | sequence => rfl

theorem statusNumber_testBit_last {s : State} (hs : stickyInv s) (hlast : s.last ≠ .ok) :
    (statusNumber s).testBit (7 + statusCode s.last) = true := by
  have hcode : statusCode s.last - 1 < 4 ∧ 7 + statusCode s.last = 8 + (statusCode s.last - 1) := by
    cases he : s.last with
    | ok => exact absurd he hlast
    | illegal | invalidArgument | unsupportedConfig | sequence => decide
  have hbit := stickyBit_getLsbD hlast
  rw [← hs hlast, BitVec.getLsbD_and, Bool.and_eq_true] at hbit
  rw [hcode.2, statusNumber_testBit_sticky s hcode.1]
  exact hbit.1

/-- Settles O20: the fields of STATUS in their places, and the sticky bit that a failing command sets. -/
theorem statusIsComposedFromTheState : Obligations.StatusIsComposedFromTheState :=
  ⟨exec_rdreg_status, statusNumber_lt, fun _ _ _ h =>
    statusNumber_testBit_last (Effect.of_exec h).stickyInv_next⟩

/-! ### Registers -/

theorem exec_wrreg_of_writable {idx : Byte} {r : Reg} (hr : regOf idx = some r) (hw : regWritable r = true)
    (op : Word64) (s : State) :
    exec (.wrreg idx op) s = .next (okAfter (s.writeReg r (op &&& regMask r)) .none) := by
  simp only [exec, execWrreg, hr, if_pos hw]
  rfl

/-- The registers with a mask in R36 are the read/write ones. -/
theorem writeMask_eq_some {n : Nat} {m : Word64} (h : writeMask n = some m) :
    ∃ r, regAt n = some r ∧ regWritable r = true ∧ regMask r = m := by
  rw [writeMask_eq] at h
  obtain ⟨r, hr, hmask⟩ := Option.bind_eq_some_iff.mp h
  split at hmask
  · next hw => exact ⟨r, hr, hw, Option.some.inj hmask⟩
  · cases hmask

theorem registerNumber_writeReg_same (s : State) {n : Nat} {r : Reg} (hr : regAt n = some r)
    (hw : regWritable r = true) (v : Word64) :
    registerNumber (s.writeReg r v) n = some (v &&& regMask r).toNat := by
  rw [registerNumber_eq, hr, Option.map_some, readReg_writeReg_same s hw]

theorem registerNumber_writeReg_of_ne (s : State) {n j : Nat} {r : Reg} (hr : regAt n = some r) (hne : j ≠ n)
    (v : Word64) : registerNumber (s.writeReg r v) j = registerNumber s j := by
  rw [registerNumber_eq, registerNumber_eq]
  cases hj : regAt j with
  | none => rfl
  | some r' =>
    have hregs : r' ≠ r := by
      rintro rfl
      exact hne ((eq_index_of_regAt hj).trans (eq_index_of_regAt hr).symm)
    rw [Option.map_some, Option.map_some, readReg_writeReg_of_ne s hregs]

/-- Settles O21: WRREG is one write to the register, whose frame the laws of `writeReg` state. -/
theorem wrregStoresUnderTheMask : Obligations.WrregStoresUnderTheMask := by
  intro idx op s m hm
  obtain ⟨r, hr, hw, rfl⟩ := writeMask_eq_some hm
  refine ⟨s.writeReg r (op &&& regMask r), exec_wrreg_of_writable hr hw op s, ?_,
    fun j hj => registerNumber_writeReg_of_ne s hr hj _, ?_⟩
  · rw [registerNumber_writeReg_same s hr hw, BitVec.and_assoc, BitVec.and_self]
  · simp

/-- Settles O22: a reserved index names no register, and an index without a mask names none or a read-only one. -/
theorem reservedAndReadOnlyRegistersAreRefused : Obligations.ReservedAndReadOnlyRegistersAreRefused := by
  intro idx op s
  rw [← State.raised_eq_errorAfter]
  constructor
  · intro hreserved
    simp only [exec, execRdreg, regOf_eq_regAt, regAt_of_reservedIndex hreserved]
    rfl
  · intro hmask
    rw [writeMask_eq] at hmask
    simp only [exec, execWrreg, regOf_eq_regAt]
    cases hr : regAt idx.toNat with
    | none => rfl
    | some r =>
      have hw : regWritable r ≠ true := by simpa [hr] using hmask
      simp only [if_neg hw]
      rfl

/-! ### The phases -/

@[simp] theorem crcStarted_phase (u : CrcUnit) : (crcStarted u).phase = .active := rfl

theorem Effect.fnv_phase_eq {s t : State} {i : Instr} (h : Effect s i t) :
    t.fnv.phase =
      if i = .reset then .idle
      else if i = .fnvStart then (if t.last = .ok then .active else .idle)
      else s.fnv.phase := by
  cases h with
  | refused hi | answered hi | fed hi | mwStored hi =>
    obtain ⟨hreset, hfnv, -⟩ := hi
    simp [hreset, hfnv]
  | reset => rfl
  | wrote | fnvStarted | fnvStartFailed | crcStarted | crcStartFailed | shaInit | shaFinal => simp

theorem Effect.crc_phase_eq {s t : State} {i : Instr} (h : Effect s i t) :
    t.crc.phase =
      if i = .reset then .idle
      else if i = .crcStart then (if t.last = .ok then .active else .idle)
      else s.crc.phase := by
  cases h with
  | refused hi | answered hi | fed hi | mwStored hi =>
    obtain ⟨hreset, -, hcrc⟩ := hi
    simp [hreset, hcrc]
  | reset => rfl
  | wrote | fnvStarted | fnvStartFailed | crcStarted | crcStartFailed | shaInit | shaFinal =>
    simp

/-- Settles O55: the phases after every effect of a command; a word that does not decode changes none. -/
theorem phasesChangeOnlyAtStarts : Obligations.PhasesChangeOnlyAtStarts := by
  refine ⟨rfl, rfl, fun s t c rest hp h => ?_⟩
  rcases step_cons_cases hp h with ⟨e, hd, rfl⟩ | ⟨i, hd, heff⟩
  · simp [hd]
  · simp only [hd, Except.ok.injEq]
    exact ⟨heff.fnv_phase_eq, heff.crc_phase_eq⟩

/-! ### The empty port -/

/-- Settles O6: an empty port has no command to take. -/
theorem stepWaitsForACommand : Obligations.StepWaitsForACommand := fun _ => step_of_nil

end Sys2Proof.Machine
end

section
/-! The byte lists that the digests return, as the base-256 digits of a number (00_scope.md R11). -/

namespace Sys2Proof.Machine

open Sys2Proof Sys2Proof.Claims

theorem leBytes_eq_numberBytes {w : Nat} (n : Nat) (x : BitVec w) :
    leBytes n x = numberBytes n x.toNat .little := by
  refine List.map_congr_left fun k _ => ?_
  rw [BitVec.extractLsb', Nat.shiftRight_eq_div_pow, Nat.pow_mul]

theorem orderedBytes_eq_numberBytes {w : Nat} (n : Nat) (x : BitVec w) (o : ByteOrder) :
    orderedBytes n x o = numberBytes n x.toNat o := by
  cases o with
  | little => exact leBytes_eq_numberBytes n x
  | big =>
    rw [orderedBytes, beBytes, leBytes_eq_numberBytes]
    exact List.ext_getElem (by simp [numberBytes]) fun k _ _ => by simp [numberBytes]

/-- Whole bytes below bit `m` do not see the bits from `m` on. -/
theorem orderedBytes_setWidth {w m n : Nat} (h : 8 * n ≤ m) (x : BitVec w) (o : ByteOrder) :
    orderedBytes n (x.setWidth m) o = orderedBytes n x o := by
  have hle : leBytes n (x.setWidth m) = leBytes n x := by
    refine List.map_congr_left fun k hk => BitVec.eq_of_getLsbD_eq fun i hi => ?_
    have hbit : 8 * k + i < m := by
      have := List.mem_range.mp hk
      omega
    simp [hbit]
  cases o with
  | little => exact hle
  | big => exact congrArg List.reverse hle

end Sys2Proof.Machine
end

section
/-! The commands that return the result of a computation, and the commands that only read (20_memory.md). -/

namespace Sys2Proof.Machine

open Sys2Proof Sys2Proof.Claims

/-! ### The digests -/

/-- The bytes of the digest lie below bit W, so cutting the accumulator to W bits first changes none of them (R196). -/
theorem fnvDigest_eq_numberBytes (u : FnvUnit) :
    fnvDigest u = numberBytes ((fnvParams u.act.width).width / 8) u.acc.toNat u.act.order := by
  rw [fnvDigest, orderedBytes_setWidth (Nat.mul_div_le _ _), orderedBytes_eq_numberBytes]

/-- Settles O30: in an ACTIVE unit FNV_DIGEST answers with the digest's bytes, for the latched width's parameters. -/
theorem fnvDigestReturnsTheAccumulator : Obligations.FnvDigestReturnsTheAccumulator := by
  intro s p hactive hp
  simp only [exec, execFnvDigest, hactive, fnvDigest_eq_numberBytes, fnvParams_of_some hp]
  rfl

theorem crcWidth_le {c : BitVec 7} (h : crcWidthLegal c = true) : c.toNat ≤ 64 := by
  have hmem : c.toNat ∈ crcWidths := List.contains_iff_mem.mp h
  simp only [crcWidths, List.mem_cons, List.not_mem_nil, or_false] at hmem
  omega

/-- CRC_FINAL bit by bit: REFOUT reverses the W bits of the register, and the mask is XORed in afterwards (R227). -/
theorem crcFinal_getLsbD {u : CrcUnit} (hwidth : u.actCtrl.width.toNat ≤ 64)
    (hreg : u.reg.toNat < 2 ^ u.actCtrl.width.toNat) (i : Nat) :
    (crcFinal u).getLsbD i =
      ((decide (i < u.actCtrl.width.toNat) &&
          u.reg.getLsbD (if u.actCtrl.refout then u.actCtrl.width.toNat - 1 - i else i))
        ^^ u.actXorout.getLsbD i) := by
  rw [crcFinal, BitVec.getLsbD_xor]
  cases u.actCtrl.refout with
  | true => simp only [if_true, reflect_getLsbD _ _ _ hwidth]
  | false =>
    have hlow := keepLow_getLsbD u.actCtrl.width.toNat u.reg i
    rw [keepLow_of_lt _ _ hreg] at hlow
    simpa using hlow

/-- Settles O37: CRC_FINAL is the value, and its bits need the register below `2^W`, which the invariant gives. -/
theorem crcDigestFinalizesACopy : Obligations.CrcDigestFinalizesACopy := by
  intro s ⟨hphase, hvalid⟩ hactive
  obtain ⟨hwidth, -, -, hreg, -⟩ := hvalid (hphase.mp hactive)
  refine ⟨crcFinal s.crc, crcFinal_getLsbD (crcWidth_le hwidth) hreg, ?_⟩
  simp only [exec, execCrcDigest, hactive, crcDigest, orderedBytes_eq_numberBytes]
  rfl

/-! ### Reads -/

/-- A state with another record: LAST, STICKY and the response. -/
def State.recorded (s : State) (l : Status) (k : BitVec 4) (r : Option Response) : State :=
  { s with last := l, sticky := k, response := r }

/-- A state after a command that ends with a payload or with an error, and does nothing else. -/
def State.ended (s : State) : Except Status Payload → State
  | .ok p => s.completed p
  | .error e => s.raised e

theorem State.ended_eq_recorded (s : State) (a : Except Status Payload) :
    s.ended a = s.recorded (s.ended a).last (s.ended a).sticky (s.ended a).response := by
  cases a <;> rfl

theorem State.ended_response_congr (s s' : State) (a : Except Status Payload) :
    (s.ended a).response = (s'.ended a).response := by
  cases a <;> rfl

/-- Every register but STATUS reads the same whatever the record holds (R37). -/
theorem State.readReg_recorded (s : State) {r : Reg} (hr : r ≠ .status) (l : Status) (k : BitVec 4)
    (o : Option Response) : (s.recorded l k o).readReg r = s.readReg r := by
  cases r with
  | status => exact absurd rfl hr
  | canonCfg | fnvCfg | fnvAct | crcCtrl | crcPoly | crcInit | crcXorout | crcReg | crcActCtrl | crcActPoly
  | crcActXorout | shaLenLo | shaLenHi | shaCur | mwCfg => rfl

theorem regOf_ne_status {idx : Byte} (hidx : idx ≠ 0x00) {r : Reg} (hr : regOf idx = some r) : r ≠ .status := by
  rintro rfl
  exact hidx (BitVec.eq_of_toNat_eq (eq_index_of_regAt hr))

/-- A read ends with an answer and does nothing else; but for RDREG of STATUS, the answer does not depend on the
record. -/
theorem exec_read {i : Instr} (hi : readCommand i) (s : State) :
    ∃ a, exec i s = .next (s.ended a) ∧
      (i ≠ .rdreg 0x00 → ∀ l k o, exec i (s.recorded l k o) = .next ((s.recorded l k o).ended a)) := by
  cases i
  case rdreg idx =>
    simp only [exec, execRdreg]
    cases hr : regOf idx with
    | none => exact ⟨.error .invalidArgument, rfl, fun _ _ _ _ => rfl⟩
    | some r =>
      refine ⟨.ok (.value (s.readReg r)), rfl, fun hne l k o => ?_⟩
      have hidx : idx ≠ 0x00 := fun h => hne (congrArg Instr.rdreg h)
      simp only [s.readReg_recorded (regOf_ne_status hidx hr)]
      rfl
  case info idx | shaRdh idx | mwRda idx | mwRdb idx | fnvDigest | crcDigest =>
    simp only [exec, execInfo, execShaRdh, execMwRda, execMwRdb, execFnvDigest, execCrcDigest, State.recorded]
    split
    · exact ⟨.error _, rfl, fun _ _ _ _ => rfl⟩
    · exact ⟨.ok _, rfl, fun _ _ _ _ => rfl⟩
  case crcRdtab idx =>
    by_cases hvalid : s.crc.tvalid = true <;>
      simp only [exec, execCrcRdtab, State.recorded, hvalid, if_true]
    · exact ⟨.ok _, rfl, fun _ _ _ _ => rfl⟩
    · exact ⟨.error _, rfl, fun _ _ _ _ => rfl⟩
  case shaDigest =>
    simp only [exec, execShaDigest, State.recorded]
    split
    · exact ⟨.ok _, rfl, fun _ _ _ _ => rfl⟩
    all_goals exact ⟨.error _, rfl, fun _ _ _ _ => rfl⟩
  all_goals exact hi.elim

/-- Settles O56: a read ends with one answer on every record, and STATUS alone is read from the record. -/
theorem readsHaveNoSideEffects : Obligations.ReadsHaveNoSideEffects := by
  intro i s t hi h
  obtain ⟨a, hexec, hagain⟩ := exec_read hi s
  have ht : t = s.ended a := Host.Outcome.next.inj (h.symm.trans hexec)
  have hrecord : t = s.recorded t.last t.sticky t.response := ht ▸ s.ended_eq_recorded a
  refine ⟨hrecord, fun hne => ?_, ?_⟩
  · have hrepeat := hagain hne t.last t.sticky t.response
    rw [← hrecord] at hrepeat
    exact ⟨_, hrepeat, ht ▸ State.ended_response_congr _ s a⟩
  · rintro rfl
    rw [exec_rdreg_status] at h
    cases h
    exact ⟨rfl, exec_rdreg_status _⟩

end Sys2Proof.Machine
end

section
/-! The fields of the command word (30_encoding.md R101): a value placed at a bit position, and the field read back
from it. -/

namespace Sys2Proof

/-! ### A value placed in a word -/

/-- `v` at bit `s` of a word of `w` bits, every other bit zero. -/
def placed {n : Nat} (w s : Nat) (v : BitVec n) : BitVec w := v.setWidth w <<< s

theorem placed_zero {n w : Nat} (v : BitVec n) : placed w 0 v = v.setWidth w := BitVec.shiftLeft_zero _

theorem placed_getLsbD {n w s k : Nat} (v : BitVec n) (hk : k < w) :
    (placed w s v).getLsbD k = (decide (s ≤ k) && v.getLsbD (k - s)) := by
  simp [placed, hk, ← decide_not]

theorem extractLsb'_placed_same {n w s : Nat} (v : BitVec n) (h : s + n ≤ w) :
    (placed w s v).extractLsb' s n = v := by
  refine BitVec.eq_of_getLsbD_eq fun k hk => ?_
  simp [hk, placed_getLsbD v (show s + k < w by omega)]

theorem extractLsb'_placed_of_disjoint {n m w s t : Nat} (v : BitVec n) (hw : t + m ≤ w)
    (h : s + n ≤ t ∨ t + m ≤ s) : (placed w s v).extractLsb' t m = 0#m := by
  refine BitVec.eq_of_getLsbD_eq fun k hk => ?_
  rw [BitVec.getLsbD_extractLsb', placed_getLsbD v (by omega)]
  rcases h with hlow | hhigh
  · simp [v.getLsbD_of_ge (t + k - s) (by omega)]
  · simp [show ¬ s ≤ t + k by omega]

/-- A field put back where it was read is the word under the field's mask. -/
theorem placed_extractLsb' {w : Nat} (s n : Nat) (x : BitVec w) :
    placed w s (x.extractLsb' s n) = x &&& placed w s (BitVec.allOnes n) := by
  refine BitVec.eq_of_getLsbD_eq fun k hk => ?_
  rw [BitVec.getLsbD_and, placed_getLsbD _ hk, placed_getLsbD _ hk]
  by_cases hs : s ≤ k
  · simp [hs, Nat.add_sub_cancel' hs, Bool.and_comm]
  · simp [hs]

theorem and_or_and_not {w : Nat} (x m : BitVec w) : (x &&& m) ||| (x &&& ~~~m) = x := by
  rw [← BitVec.and_or_distrib_left]; simp

end Sys2Proof
end

section
/-! Decoding by the rows of the opcode table (30_encoding.md R102, R106, R107): a command word decodes exactly when it
meets the fixed bits of an opcode, and at most one opcode's. -/

namespace Sys2Proof

open Sys2Proof.Laws

/-! ### The fixed bits of an opcode -/

/-- CW meets the row of `o`: `(CW AND mask) = match` (R106). -/
def Opcode.meets (o : Opcode) (cw : Word32) : Prop := cw &&& o.mask = o.matchWord

theorem Opcode.matchWord_eq_placed (o : Opcode) : o.matchWord = placed 32 24 o.code := rfl

theorem Opcode.ofCode_code (o : Opcode) : ofCode o.code = some o := by cases o <;> rfl

/-- The OPC values are distinct (R106). -/
theorem Opcode.code_injective : Function.Injective code := fun o o' h =>
  Option.some.inj (by rw [← o.ofCode_code, h, o'.ofCode_code])

@[simp] theorem opcField_matchWord (o : Opcode) : opcField o.matchWord = o.code :=
  extractLsb'_placed_same o.code (by decide)

/-- Every mask covers OPC (R106). -/
theorem opcField_and_mask (o : Opcode) (cw : Word32) : opcField (cw &&& o.mask) = opcField cw := by
  have hmask : opcField o.mask = BitVec.allOnes 8 := by cases o <;> rfl
  have hand : opcField (cw &&& o.mask) = opcField cw &&& opcField o.mask := BitVec.extractLsb'_and
  rw [hand, hmask, BitVec.and_allOnes]

theorem Opcode.meets.opcField_eq {o : Opcode} {cw : Word32} (h : o.meets cw) : opcField cw = o.code := by
  rw [← opcField_and_mask o, h, opcField_matchWord]

/-- At most one row matches, because the OPC values are distinct (R106). -/
theorem Opcode.meets.unique {o o' : Opcode} {cw : Word32} (h : o.meets cw) (h' : o'.meets cw) : o = o' :=
  code_injective (h.opcField_eq.symm.trans h'.opcField_eq)

theorem decode_eq_ok_iff {c : Command} {i : Instr} :
    decode c = .ok i ↔ ∃ o : Opcode, o.meets c.cw ∧ o.build c = i := by
  constructor
  · intro h
    unfold decode at h
    split at h
    · cases h
    next o _ =>
      split at h
      · exact ⟨o, ‹_›, Except.ok.inj h⟩
      · cases h
  · rintro ⟨o, hmeets, rfl⟩
    have hcode : Opcode.ofCode (opcField c.cw) = some o := hmeets.opcField_eq ▸ o.ofCode_code
    simp only [decode, hcode]
    exact if_pos hmeets

theorem exists_decode_error {c : Command} (h : ∀ o : Opcode, ¬ o.meets c.cw) : ∃ e, decode c = .error e := by
  cases hd : decode c with
  | error e => exact ⟨e, rfl⟩
  | ok i =>
    obtain ⟨o, hmeets, -⟩ := decode_eq_ok_iff.mp hd
    exact absurd hmeets (h o)

@[simp] theorem Opcode.build_opcode (o : Opcode) (c : Command) : (o.build c).opcode = o := by cases o <;> rfl

/-! ### The operands in a command word -/

/-- The bits of CW that carry the fields of a format (R101, R102). -/
def Format.fieldBits (f : Format) (cw : Word32) : Word32 :=
  match f with
  | .n => 0
  | .b => placed 32 0 (b8Field cw)
  | .i | .w => placed 32 8 (idxField cw)
  | .e => placed 32 20 (unitField cw) ||| placed 32 16 (szField cw)

/-- The fields of a format and its must-be-zero bits make up CW (R102). -/
theorem Format.fieldBits_eq_and_not_mask (f : Format) (cw : Word32) : f.fieldBits cw = cw &&& ~~~f.mask := by
  cases f with
  | n => exact BitVec.and_zero.symm
  | b => exact placed_extractLsb' 0 8 cw
  | i | w => exact placed_extractLsb' 8 8 cw
  | e =>
    simp only [fieldBits, unitField, szField, placed_extractLsb', ← BitVec.and_or_distrib_left]
    rfl

theorem encodeWord_build (o : Opcode) (c : Command) :
    encodeWord (o.build c) = o.matchWord ||| o.format.fieldBits c.cw := by
  cases o
  case emit => exact BitVec.or_assoc ..
  case nop | reset | fnvStart | fnvDigest | crcStart | crcDigest | shaInit | shaFinal | shaDigest | mwMul =>
    exact BitVec.or_zero.symm
  case fnvByte | crcByte | shaByte | mwXorb =>
    simp only [Opcode.build, encodeWord, Instr.opcode, Opcode.format, Format.fieldBits, placed_zero]
  all_goals rfl

/-- An encoded command word meets its opcode's row: the law of each command, `FixedBits`. -/
theorem opcode_meets_encodeWord (i : Instr) : i.opcode.meets (encodeWord i) :=
  match i with
  | .nop => FixedBits.nop
  | .reset => FixedBits.reset
  | .info idx => FixedBits.info idx
  | .rdreg idx => FixedBits.rdreg idx
  | .wrreg idx op => FixedBits.wrreg idx op
  | .emit unit sz op => FixedBits.emit unit sz op
  | .fnvStart => FixedBits.fnvStart
  | .fnvByte b => FixedBits.fnvByte b
  | .fnvDigest => FixedBits.fnvDigest
  | .crcStart => FixedBits.crcStart
  | .crcByte b => FixedBits.crcByte b
  | .crcDigest => FixedBits.crcDigest
  | .crcRdtab idx => FixedBits.crcRdtab idx
  | .shaInit => FixedBits.shaInit
  | .shaByte b => FixedBits.shaByte b
  | .shaFinal => FixedBits.shaFinal
  | .shaDigest => FixedBits.shaDigest
  | .shaRdh idx => FixedBits.shaRdh idx
  | .mwLda idx op => FixedBits.mwLda idx op
  | .mwLdb idx op => FixedBits.mwLdb idx op
  | .mwMul => FixedBits.mwMul
  | .mwXorb b => FixedBits.mwXorb b
  | .mwRda idx => FixedBits.mwRda idx
  | .mwRdb idx => FixedBits.mwRdb idx

/-! ### The operands of an encoded command -/

/-- A match word has no bit below OPC, so a field below OPC is that of the operands. -/
theorem extractLsb'_matchWord_or {s n : Nat} (o : Opcode) (x : Word32) (h : s + n ≤ 24) :
    (o.matchWord ||| x).extractLsb' s n = x.extractLsb' s n := by
  rw [BitVec.extractLsb'_or, o.matchWord_eq_placed,
    extractLsb'_placed_of_disjoint o.code (by omega) (.inr h), BitVec.zero_or]

theorem idxField_encoded (o : Opcode) (idx : Byte) : idxField (o.matchWord ||| idx.setWidth 32 <<< 8) = idx :=
  (extractLsb'_matchWord_or o _ (by decide)).trans (extractLsb'_placed_same idx (by decide))

theorem b8Field_encoded (o : Opcode) (b : Byte) : b8Field (o.matchWord ||| b.setWidth 32) = b := by
  rw [← placed_zero]
  exact (extractLsb'_matchWord_or o _ (by decide)).trans (extractLsb'_placed_same b (by decide))

theorem extractLsb'_emitWord {s : Nat} (o : Opcode) (unit sz : BitVec 4) (h : s + 4 ≤ 24) :
    (o.matchWord ||| unit.setWidth 32 <<< 20 ||| sz.setWidth 32 <<< 16).extractLsb' s 4 =
      (placed 32 20 unit).extractLsb' s 4 ||| (placed 32 16 sz).extractLsb' s 4 := by
  rw [BitVec.or_assoc, extractLsb'_matchWord_or o _ h]
  exact BitVec.extractLsb'_or

theorem unitField_encoded (o : Opcode) (unit sz : BitVec 4) :
    unitField (o.matchWord ||| unit.setWidth 32 <<< 20 ||| sz.setWidth 32 <<< 16) = unit := by
  rw [unitField, extractLsb'_emitWord o unit sz (by decide), extractLsb'_placed_same unit (by decide),
    extractLsb'_placed_of_disjoint sz (by decide) (by decide), BitVec.or_zero]

theorem szField_encoded (o : Opcode) (unit sz : BitVec 4) :
    szField (o.matchWord ||| unit.setWidth 32 <<< 20 ||| sz.setWidth 32 <<< 16) = sz := by
  rw [szField, extractLsb'_emitWord o unit sz (by decide), extractLsb'_placed_same sz (by decide),
    extractLsb'_placed_of_disjoint unit (by decide) (by decide), BitVec.zero_or]

theorem build_encode (i : Instr) : i.opcode.build (encode i) = i := by
  cases i
  case info | rdreg | crcRdtab | shaRdh | mwRda | mwRdb | wrreg | mwLda | mwLdb =>
    simp only [Instr.opcode, Opcode.build, encode, encodeWord, encodeOperand, idxField_encoded]
  case fnvByte | crcByte | shaByte | mwXorb =>
    simp only [Instr.opcode, Opcode.build, encode, encodeWord, b8Field_encoded]
  case emit =>
    simp only [Instr.opcode, Opcode.build, encode, encodeWord, encodeOperand, unitField_encoded, szField_encoded]
  all_goals rfl

/-- Settles O1: an encoded word meets its opcode's row, and the row's fields read the operands back. -/
theorem encodedCommandsDecode : Obligations.EncodedCommandsDecode := fun i =>
  decode_eq_ok_iff.mpr ⟨i.opcode, opcode_meets_encodeWord i, build_encode i⟩

/-- Formats W and E keep the whole OP (R104, R110). -/
theorem encodeOperand_build {o : Opcode} (c : Command) (h : o.format = .w ∨ o.format = .e) :
    encodeOperand (o.build c) = c.op := by
  cases o
  case wrreg | emit | mwLda | mwLdb => rfl
  all_goals exact absurd h (by decide)

/-- Settles O2: CW is the fixed bits of the row and the bits of its fields, and the encoder writes both. -/
theorem decodedCommandsEncodeBack : Obligations.DecodedCommandsEncodeBack := by
  intro c i h
  obtain ⟨o, hmeets, rfl⟩ := decode_eq_ok_iff.mp h
  refine ⟨?_, fun hformat => encodeOperand_build c (o.build_opcode c ▸ hformat)⟩
  calc encodeWord (o.build c)
    _ = o.matchWord ||| o.format.fieldBits c.cw := encodeWord_build o c
    _ = (c.cw &&& o.mask) ||| (c.cw &&& ~~~o.mask) := by rw [hmeets, o.format.fieldBits_eq_and_not_mask]; rfl
    _ = c.cw := and_or_and_not c.cw o.mask

end Sys2Proof
end

section
/-! The statements about the opcode table and about the words that spell no command (30_encoding.md R103, R106, R108,
R112). -/

namespace Sys2Proof.Machine

open Sys2Proof Sys2Proof.Claims

/-! ### The rows of the table -/

/-- The statement's copy of R106's table holds the mask and match of every opcode, and nothing else. -/
theorem mem_opcodeRows_iff {r : Opcode × Word32 × Word32} :
    r ∈ opcodeRows ↔ r = (r.1, r.1.matchWord, r.1.mask) := by
  have hrows : ∀ q ∈ opcodeRows, q = (q.1, q.1.matchWord, q.1.mask) := by decide
  have hall : ∀ o : Opcode, (o, o.matchWord, o.mask) ∈ opcodeRows := by
    intro o
    cases o <;> decide
  exact ⟨hrows r, fun h => h ▸ hall r.1⟩

theorem meets_iff_of_mem {r : Opcode × Word32 × Word32} (hr : r ∈ opcodeRows) {cw : Word32} :
    r.1.meets cw ↔ cw &&& r.2.2 = r.2.1 := by
  rw [mem_opcodeRows_iff.mp hr]
  rfl

/-- Settles O3: a row is an opcode's mask and match, and decoding goes by the one opcode whose row CW meets. -/
theorem decodeFollowsTheOpcodeTable : Obligations.DecodeFollowsTheOpcodeTable := by
  intro c
  refine ⟨fun r hr hmatch => ?_, fun hnone => ?_⟩
  · have hmeets := (meets_iff_of_mem hr).mpr hmatch
    have hdecode : decode c = .ok (r.1.build c) := decode_eq_ok_iff.mpr ⟨r.1, hmeets, rfl⟩
    refine ⟨⟨r.1.build c, hdecode, r.1.build_opcode c⟩, fun q hq hmatch' => ?_⟩
    have hopcode : q.1 = r.1 := ((meets_iff_of_mem hq).mpr hmatch').unique hmeets
    rw [mem_opcodeRows_iff.mp hq, mem_opcodeRows_iff.mp hr, hopcode]
  · exact exists_decode_error fun o => hnone (o, o.matchWord, o.mask) (mem_opcodeRows_iff.mpr rfl)

/-! ### Words that spell no command -/

theorem opcField_toNat (cw : Word32) : (opcField cw).toNat = cw.toNat / 2 ^ 24 := by
  rw [opcField, BitVec.extractLsb'_toNat, Nat.shiftRight_eq_div_pow]
  omega

theorem matchWord_toNat_div (o : Opcode) : o.matchWord.toNat / 2 ^ 24 = o.code.toNat := by
  rw [← opcField_toNat, opcField_matchWord]

theorem not_reservedOpc_code (o : Opcode) : ¬ reservedOpc o.code.toNat := by
  unfold reservedOpc
  cases o <;> decide

theorem step_of_undecodable {s : State} {c : Command} {rest : List Command} (hs : s.pending = c :: rest)
    (hd : ∃ e, decode c = .error e) : step s = .next (errorAfter { s with pending := rest } .illegal) := by
  obtain ⟨e, he⟩ := hd
  rw [step_of_decode_error hs he, State.raise, State.raised_eq_errorAfter]

/-- Settles O7: a word that meets a row has that row's OPC, which is not reserved and in no other row. -/
theorem undecodableCommandsAreIllegal : Obligations.UndecodableCommandsAreIllegal := by
  intro s c rest hs hword
  refine step_of_undecodable hs (exists_decode_error fun o hmeets => ?_)
  have hopc : c.cw.toNat / 2 ^ 24 = o.code.toNat := by rw [← opcField_toNat, hmeets.opcField_eq]
  rcases hword with hreserved | ⟨r, hr, hrow, hfield⟩
  · exact not_reservedOpc_code o (hopc ▸ hreserved)
  · rw [mem_opcodeRows_iff.mp hr, hopc, matchWord_toNat_div] at hrow
    have hopcode : o = r.1 := Opcode.code_injective (BitVec.eq_of_toNat_eq hrow)
    exact hfield ((meets_iff_of_mem hr).mp (hopcode ▸ hmeets))

/-- Settles O4: the two ILLEGAL words meet no row of the table, whatever OP is. -/
theorem workedEncodings : Obligations.WorkedEncodings := by
  have hidx : ∀ r ∈ opcodeRows, (0x11000168 : Word32) &&& r.2.2 ≠ r.2.1 := by decide
  have hopc : ∀ r ∈ opcodeRows, (0x05000000 : Word32) &&& r.2.2 ≠ r.2.1 := by decide
  refine ⟨rfl, rfl, rfl, rfl, rfl, fun op s rest hs => ?_, fun op s rest hs => ?_⟩
  · exact step_of_undecodable hs ((decodeFollowsTheOpcodeTable _).2 hidx)
  · exact step_of_undecodable hs ((decodeFollowsTheOpcodeTable _).2 hopc)

end Sys2Proof.Machine
end

section
/-! The port (40_control.md R130): one command taken and answered; and the global commands (R131 to R134). -/

namespace Sys2Proof.Machine

open Sys2Proof Sys2Proof.Claims

/-! ### The port -/

/-- Settles O5: the model's step on a word that decodes. -/
theorem stepRunsTheDecodedCommand : Obligations.StepRunsTheDecodedCommand :=
  fun _ _ _ _ hs hd => step_of_decode_ok hs hd

/-- A command takes nothing from the port: the step has taken it before (R130). -/
theorem exec_keeps_pending (i : Instr) (s : State) : ∃ t, exec i s = .next t ∧ t.pending = s.pending := by
  rcases exec_ends i s with ⟨s', p, hexec, hp⟩ | ⟨s', e, hexec, -, hstate⟩
  · exact ⟨s'.completed p, hexec, hp⟩
  · refine ⟨s'.raised e, hexec, ?_⟩
    rcases hstate with rfl | ⟨-, rfl⟩ | ⟨-, rfl⟩
    · rfl
    · rfl
    · rfl

/-- Settles O8: an undecodable command raises ILLEGAL, and a decoded one leaves the port and ends with a response that
carries LAST. -/
theorem everyCommandIsAnswered : Obligations.EveryCommandIsAnswered := by
  intro s c rest hs
  cases hd : decode c with
  | error e => exact ⟨_, _, step_of_undecodable hs ⟨e, hd⟩, rfl, rfl, rfl, fun _ => rfl⟩
  | ok i =>
    obtain ⟨t, hexec, hpending⟩ := exec_keeps_pending i { s with pending := rest }
    obtain ⟨p, hresponse, hpayload⟩ := (Effect.of_exec hexec).response_eq
    exact ⟨t, _, (step_of_decode_ok hs hd).trans hexec, hpending, hresponse, rfl, hpayload⟩

/-! ### NOP and RESET -/

/-- Settles O15: NOP completes the state it finds. -/
theorem nopChangesNothing : Obligations.NopChangesNothing := fun _ => rfl

/-- Settles O16: RESET completes the reset state with the port it finds. -/
theorem resetRestoresTheResetState : Obligations.ResetRestoresTheResetState := fun _ => rfl

/-! ### INFO -/

theorem exec_info_of_some {idx : Byte} {v : Word64} (hv : infoValue idx = some v) (s : State) :
    exec (.info idx) s = .next (okAfter s (.value v)) := by
  simp only [exec, execInfo, hv]
  rfl

theorem exec_info_of_none {idx : Byte} (hv : infoValue idx = none) (s : State) :
    exec (.info idx) s = .next (errorAfter s .invalidArgument) := by
  simp only [exec, execInfo, hv, State.raise, State.raised_eq_errorAfter]

/-- No selector but 0 to 4 has a constant (R133). -/
theorem infoValue_eq_none {idx : Byte} (h : 5 ≤ idx.toNat) : infoValue idx = none := by
  unfold infoValue
  split
  case h_6 => rfl
  all_goals omega

/-- Settles O18: a selector below 5 has its constant, and every other one is refused. -/
theorem infoReturnsTheConstants : Obligations.InfoReturnsTheConstants := by
  intro idx s
  split_ifs with h0 h1 h2 h3 h4
  · exact exec_info_of_some (h0 ▸ rfl) s
  · exact exec_info_of_some (h1 ▸ rfl) s
  · exact exec_info_of_some (h2 ▸ rfl) s
  · exact exec_info_of_some (h3 ▸ rfl) s
  · exact exec_info_of_some (h4 ▸ rfl) s
  · have hidx : 5 ≤ idx.toNat := by bv_omega
    exact exec_info_of_none (infoValue_eq_none hidx) s

/-! ### RDREG -/

theorem exec_rdreg_of_some {idx : Byte} {r : Reg} (hr : regOf idx = some r) (s : State) :
    exec (.rdreg idx) s = .next (okAfter s (.value (s.readReg r))) := by
  simp only [exec, execRdreg, hr]
  rfl

theorem exec_rdreg_of_none {idx : Byte} (hr : regOf idx = none) (s : State) :
    exec (.rdreg idx) s = .next (errorAfter s .invalidArgument) := by
  simp only [exec, execRdreg, hr, State.raise, State.raised_eq_errorAfter]

/-- Settles O19: an index names a register or none, and a register's word is the number its fields compose. -/
theorem rdregReturnsTheRegister : Obligations.RdregReturnsTheRegister := by
  intro idx s
  rw [registerNumber_eq, ← regOf_eq_regAt]
  cases hr : regOf idx with
  | none => exact exec_rdreg_of_none hr s
  | some r =>
    simp only [exec_rdreg_of_some hr, Option.map_some, BitVec.ofNat_toNat, BitVec.setWidth_eq]

end Sys2Proof.Machine
end

section
/-! The canonicalizer (41_canonicalizer.md): the canonical bytes of a scalar, and what an EMIT and the byte commands
do to the unit that they feed. -/

namespace Sys2Proof.Machine

open Sys2Proof Sys2Proof.Claims

/-! ### Canonical bytes -/

/-- Cutting the value to its `8n` low bits changes none of the `n` bytes (R150). -/
theorem canonBytes_eq_numberBytes (v : Word64) (n : Nat) (o : ByteOrder) :
    canonBytes v n o = numberBytes n v.toNat o := by
  rw [canonBytes, orderedBytes_setWidth le_rfl, orderedBytes_eq_numberBytes]

theorem canonBytes_one (v : Word64) (o : ByteOrder) : canonBytes v 1 o = [v.setWidth 8] := by
  rw [canonBytes_eq_numberBytes]
  cases o <;> simp [numberBytes]

theorem canonBytes_little_eq_reverse_big (v : Word64) (n : Nat) :
    canonBytes v n .little = (canonBytes v n .big).reverse :=
  (List.reverse_reverse _).symm

/-- Settles O23: the digits of the number give each order, and R11 defines big-endian as little-endian reversed. -/
theorem canonicalOrders : Obligations.CanonicalOrders :=
  ⟨canonBytes_one, fun v n _ =>
    ⟨canonBytes_eq_numberBytes v n .little, canonBytes_eq_numberBytes v n .big,
      canonBytes_little_eq_reverse_big v n⟩⟩

theorem numberBytes_ne_nil {n : Nat} (hn : n ≠ 0) (x : Nat) (o : ByteOrder) : numberBytes n x o ≠ [] := by
  cases o <;> simpa [numberBytes] using hn

/-! ### Commands in order -/

theorem runAll_append {is : List Instr} {s t : State} (h : runAll is s = .next t) (js : List Instr) :
    runAll (is ++ js) s = runAll js t := by
  induction is generalizing s with
  | nil => cases h; rfl
  | cons i is ih =>
    obtain ⟨r, hr, -⟩ := exec_effect i s
    simp only [runAll, List.cons_append, hr] at h ⊢
    exact ih h

/-! ### Bytes fed to a unit, and how the command that feeds them ends -/

/-- A unit that accepts a byte still accepts the next one (R294). -/
theorem unitAccepts_feedUnit {u : EmitUnit} {s : State} (h : unitAccepts s u = true) (b : Byte) :
    unitAccepts (feedUnit u s b) u = true := by
  cases u with
  | fnv => simpa [unitAccepts] using h
  | crc => exact h
  | sha => rfl

theorem unitAccepts_foldl_feedUnit {u : EmitUnit} {s : State} (h : unitAccepts s u = true) (bs : List Byte) :
    unitAccepts (bs.foldl (feedUnit u) s) u = true :=
  List.foldlRecOn (motive := fun t => unitAccepts t u = true) bs (feedUnit u) h
    fun _ ht b _ => unitAccepts_feedUnit ht b

@[simp] theorem unitAccepts_completed (s : State) (p : Payload) (u : EmitUnit) :
    unitAccepts (s.completed p) u = unitAccepts s u := by
  cases u <;> rfl

@[simp] theorem unitAccepts_raised (s : State) (e : Status) (u : EmitUnit) :
    unitAccepts (s.raised e) u = unitAccepts s u := by
  cases u <;> rfl

@[simp] theorem foldl_feedUnit_canonOrder (u : EmitUnit) (bs : List Byte) (s : State) :
    (bs.foldl (feedUnit u) s).canonOrder = s.canonOrder := by
  cases u <;> simp only [foldl_feedUnit_fnv, foldl_feedUnit_crc, foldl_feedUnit_sha]

/-- No unit reads LAST or the response, so a feed goes on from a completed command as if it had not ended. -/
theorem feedUnit_completed (u : EmitUnit) (s : State) (p : Payload) (b : Byte) :
    feedUnit u (s.completed p) b = (feedUnit u s b).completed p := by
  cases u <;> rfl

theorem foldl_feedUnit_completed (u : EmitUnit) (bs : List Byte) (s : State) (p : Payload) :
    bs.foldl (feedUnit u) (s.completed p) = (bs.foldl (feedUnit u) s).completed p :=
  List.foldl_hom (State.completed · p) fun t b => feedUnit_completed u t p b

theorem State.completed_completed (s : State) (p q : Payload) : (s.completed p).completed q = s.completed q := rfl

/-- A sticky bit stays set, so the same error a second time changes nothing more (R38). -/
theorem State.raised_raised (s : State) (e : Status) : (s.raised e).raised e = s.raised e := by
  simp only [State.raised, BitVec.or_assoc, BitVec.or_self]

/-- The state after bytes were offered to a unit: fed in order and completed, or SEQUENCE and nothing fed
(R152, R294). `exec_oneByte` and `exec_emit` tie it to the commands. -/
def offered (u : EmitUnit) (bs : List Byte) (s : State) : State :=
  if unitAccepts s u then (bs.foldl (feedUnit u) s).completed .none else s.raised .sequence

theorem offered_of_accepts {u : EmitUnit} {s : State} (h : unitAccepts s u = true) (bs : List Byte) :
    offered u bs s = (bs.foldl (feedUnit u) s).completed .none := if_pos h

theorem offered_of_not_accepts {u : EmitUnit} {s : State} (h : ¬ unitAccepts s u = true) (bs : List Byte) :
    offered u bs s = s.raised .sequence := if_neg h

@[simp] theorem offered_canonOrder (u : EmitUnit) (bs : List Byte) (s : State) :
    (offered u bs s).canonOrder = s.canonOrder := by
  rw [offered]
  split
  · rw [State.completed_canonOrder, foldl_feedUnit_canonOrder]
  · rfl

/-- Bytes offered in two goes are the bytes offered in one, accepted or refused. -/
theorem offered_offered (u : EmitUnit) (bs cs : List Byte) (s : State) :
    offered u cs (offered u bs s) = offered u (bs ++ cs) s := by
  by_cases h : unitAccepts s u = true
  · have hbs : unitAccepts ((bs.foldl (feedUnit u) s).completed .none) u = true := by
      rw [unitAccepts_completed, unitAccepts_foldl_feedUnit h]
    rw [offered_of_accepts h, offered_of_accepts hbs, offered_of_accepts h, foldl_feedUnit_completed,
      State.completed_completed, List.foldl_append]
  · have hraised : ¬ unitAccepts (s.raised .sequence) u = true := by rwa [unitAccepts_raised]
    rw [offered_of_not_accepts h, offered_of_not_accepts hraised, offered_of_not_accepts h, State.raised_raised]

/-! ### EMIT and the byte commands -/

theorem exec_oneByte (u : EmitUnit) (b : Byte) (s : State) : exec (oneByte u b) s = .next (offered u [b] s) := by
  cases u with
  | fnv => cases hp : s.fnv.phase <;> simp only [oneByte, exec, execFnvByte, offered, unitAccepts, hp] <;> rfl
  | crc => cases hp : s.crc.phase <;> simp only [oneByte, exec, execCrcByte, offered, unitAccepts, hp] <;> rfl
  | sha => cases hp : s.sha.phase <;> simp only [oneByte, exec, execShaByte, offered, unitAccepts, hp] <;> rfl

theorem runAll_oneByte (u : EmitUnit) {bs : List Byte} (hbs : bs ≠ []) (s : State) :
    runAll (bs.map (oneByte u)) s = .next (offered u bs s) := by
  induction bs generalizing s with
  | nil => exact absurd rfl hbs
  | cons b bs ih =>
    simp only [List.map_cons, runAll, exec_oneByte]
    cases bs with
    | nil => rfl
    | cons c cs => rw [ih (List.cons_ne_nil c cs), offered_offered, List.singleton_append]

/-- An EMIT whose UNIT and SZ are in range offers the canonical bytes of OP to its unit (R152). -/
theorem exec_emit (u : EmitUnit) {sz : BitVec 4} (hsz : sz.toNat ≤ 3) (op : Word64) (s : State) :
    exec (.emit (unitCode u) sz op) s =
      .next (offered u (numberBytes (2 ^ sz.toNat) op.toNat s.canonOrder) s) := by
  have hunit : emitUnit (unitCode u) = some u := by cases u <;> rfl
  have hsize : emitSize sz = some (2 ^ sz.toNat) := if_pos hsz
  simp only [exec, execEmit, hunit, hsize, canonBytes_eq_numberBytes, offered]
  split <;> rfl

/-! ### Typed scalars and sequences -/

/-- The canonical bytes of a typed scalar, whatever its layout is (R150, R151). -/
def scalarBytes (x : Scalar) (o : ByteOrder) : List Byte :=
  numberBytes (2 ^ (scalarBits x).size.toNat) (scalarBits x).value.toNat o

theorem scalarBytes_ne_nil (x : Scalar) (o : ByteOrder) : scalarBytes x o ≠ [] :=
  numberBytes_ne_nil (Nat.two_pow_pos _).ne' _ o

theorem exec_emitScalar (u : EmitUnit) (x : Scalar) (s : State) :
    exec (emitScalar u x) s = .next (offered u (scalarBytes x s.canonOrder) s) := by
  have hcode : emitUnitCode u = unitCode u := by cases u <;> rfl
  have hsize : ((scalarBits x).size.setWidth 4).toNat = (scalarBits x).size.toNat :=
    BitVec.toNat_setWidth_of_le (by decide)
  rw [emitScalar, hcode, exec_emit u (by omega), hsize, scalarBytes]

/-- Settles O25, by induction on the sequence: the first element's EMIT and the commands of its bytes leave the same
state, with the order that the other elements are canonicalized in. -/
theorem sequencesFeedTheConcatenation : Obligations.SequencesFeedTheConcatenation := by
  intro u xs
  change ∀ s, runAll (emitSequence u xs) s =
    runAll ((xs.flatMap (scalarBytes · s.canonOrder)).map (oneByte u)) s
  induction xs with
  | nil => exact fun _ => rfl
  | cons x xs ih =>
    intro s
    have hbytes := runAll_oneByte u (scalarBytes_ne_nil x s.canonOrder) s
    calc runAll (emitSequence u (x :: xs)) s
        = runAll (emitSequence u xs) (offered u (scalarBytes x s.canonOrder) s) := by
          simp only [emitSequence, List.map_cons, runAll, exec_emitScalar]
      _ = runAll ((xs.flatMap (scalarBytes · s.canonOrder)).map (oneByte u))
            (offered u (scalarBytes x s.canonOrder) s) := by rw [ih, offered_canonOrder]
      _ = runAll (((x :: xs).flatMap (scalarBytes · s.canonOrder)).map (oneByte u)) s := by
          rw [List.flatMap_cons, List.map_append, runAll_append hbytes]

end Sys2Proof.Machine
end

section
/-! The long multiplication of words (42_multiword.md R171, R179): what a row and the rows are as numbers, and the
product modulo `2^(32L)`. -/

namespace Sys2Proof.Machine

open Sys2Proof Sys2Proof.Claims

/-! ### Words as the digits of a number -/

/-- The lowest digit in base `2^32` of a number modulo a power of the base, and what it carries to the other digits. -/
theorem lowWord_add_carried_mod (t m n : Nat) :
    t % 2 ^ 32 + 2 ^ 32 * ((t / 2 ^ 32 + m) % 2 ^ (32 * n)) = (t + 2 ^ 32 * m) % 2 ^ (32 * (n + 1)) := by
  rw [Nat.mul_succ, Nat.add_comm (32 * n), Nat.pow_add, Nat.mod_mul, Nat.add_mul_mod_self_left,
    Nat.add_mul_div_left _ _ (Nat.two_pow_pos 32)]

theorem wordsValue_lt (xs : List Word32) : wordsValue xs < 2 ^ (32 * xs.length) := by
  induction xs with
  | nil => exact Nat.one_pos
  | cons x xs ih =>
    have hx := x.isLt
    rw [wordsValue, List.length_cons, Nat.mul_succ, Nat.pow_add]
    omega

@[simp] theorem wordsValue_replicate_zero (n : Nat) : wordsValue (List.replicate n 0#32) = 0 := by
  induction n with
  | zero => rfl
  | succ n ih => simp [List.replicate_succ, wordsValue, ih]

/-! ### One row and the rows -/

@[simp] theorem mulRow_nil (a : Word32) (bs : List Word32) (carry : Nat) : mulRow a bs [] carry = [] := by
  cases bs <;> rfl

theorem mulRow_cons (a b r : Word32) (bs rs : List Word32) (carry : Nat) :
    mulRow a (b :: bs) (r :: rs) carry =
      BitVec.ofNat 32 ((r.toNat + a.toNat * b.toNat + carry) % 2 ^ 32) ::
        mulRow a bs rs ((r.toNat + a.toNat * b.toNat + carry) / 2 ^ 32) := rfl

/-- A row adds `a` times B and the carry to R, and what leaves the last position of R is dropped (R171). -/
theorem wordsValue_mulRow (a : Word32) (bs rs : List Word32) (carry : Nat) (h : rs.length ≤ bs.length) :
    wordsValue (mulRow a bs rs carry) =
      (wordsValue rs + a.toNat * wordsValue bs + carry) % 2 ^ (32 * rs.length) := by
  induction rs generalizing bs carry with
  | nil => simp [wordsValue, Nat.mod_one]
  | cons r rs ih =>
    cases bs with
    | nil => cases h
    | cons b bs =>
      have hlow (t : Nat) : (BitVec.ofNat 32 (t % 2 ^ 32)).toNat = t % 2 ^ 32 := Nat.mod_mod t _
      rw [mulRow_cons, wordsValue, hlow, ih bs _ (Nat.le_of_succ_le_succ h), Nat.add_comm _ (_ / _),
        lowWord_add_carried_mod, List.length_cons, wordsValue, wordsValue]
      congr 1
      ring

theorem mulRows_cons (a r : Word32) (as bs rs rest : List Word32) (h : mulRow a bs rs 0 = r :: rest) :
    mulRows (a :: as) bs rs = r :: mulRows as bs rest := by
  rw [mulRows, h]

@[simp] theorem mulRows_nil (as bs : List Word32) : mulRows as bs [] = [] :=
  List.eq_nil_of_length_eq_zero (mulRows_length as bs [])

/-- The rows add the product of A and B to R. Each row leaves a final word, and the next one goes on one word higher
(R171). -/
theorem wordsValue_mulRows (as bs rs : List Word32) (h : rs.length ≤ bs.length) :
    wordsValue (mulRows as bs rs) =
      (wordsValue rs + wordsValue as * wordsValue bs) % 2 ^ (32 * rs.length) := by
  induction as generalizing rs with
  | nil => simp [mulRows, wordsValue, Nat.mod_eq_of_lt (wordsValue_lt rs)]
  | cons a as ih =>
    have hrow := wordsValue_mulRow a bs rs 0 h
    have hlength := mulRow_length a bs rs 0
    cases hr : mulRow a bs rs 0 with
    | nil =>
      obtain rfl : rs = [] := List.eq_nil_of_length_eq_zero (by rw [← hlength, hr]; rfl)
      simp [wordsValue, Nat.mod_one]
    | cons r rest =>
      rw [hr, wordsValue] at hrow
      rw [hr, List.length_cons] at hlength
      have hrest := ih rest (by omega)
      have hdigit := lowWord_add_carried_mod r.toNat (wordsValue rest + wordsValue as * wordsValue bs) rest.length
      rw [Nat.mod_eq_of_lt r.isLt, Nat.div_eq_of_lt r.isLt, Nat.zero_add, hlength] at hdigit
      calc wordsValue (mulRows (a :: as) bs rs)
          = (r.toNat + 2 ^ 32 * (wordsValue rest + wordsValue as * wordsValue bs)) % 2 ^ (32 * rs.length) := by
            rw [mulRows_cons _ _ _ _ _ _ hr, wordsValue, hrest, hdigit]
        _ = ((wordsValue rs + a.toNat * wordsValue bs) + 2 ^ 32 * (wordsValue as * wordsValue bs))
              % 2 ^ (32 * rs.length) := by
            rw [Nat.mul_add, ← Nat.add_assoc, hrow, Nat.mod_add_mod, Nat.add_zero]
        _ = (wordsValue rs + wordsValue (a :: as) * wordsValue bs) % 2 ^ (32 * rs.length) := by
            rw [wordsValue, Nat.add_mul, Nat.mul_assoc, Nat.add_assoc]

/-! ### The product -/

theorem wordsValue_mwMul (as bs : List Word32) (l : Nat) (h : l ≤ bs.length) :
    wordsValue (mwMul as bs l) = wordsValue (as.take l) * wordsValue (bs.take l) % 2 ^ (32 * l) := by
  rw [mwMul, wordsValue_mulRows _ _ _ (by simp [h])]
  simp

/-- Settles O50: the rows start from zero, so what they add is the product. -/
theorem mwmulIsTruncatedMultiplication : Obligations.MwmulIsTruncatedMultiplication :=
  fun as bs l _ hb => ⟨mwMul_length as bs l, wordsValue_mwMul as bs l hb⟩

end Sys2Proof.Machine
end

section
/-! The commands of the multi-word engine (42_multiword.md R172 to R177). -/

namespace Sys2Proof.Machine

open Sys2Proof Sys2Proof.Claims

/-! ### MW_MUL -/

/-- The words of MW_A below L are the product's (R174). -/
theorem mwProduct_take (u : MwUnit) (h : u.len.toNat ≤ 32) :
    (mwProduct u).toList.take u.len.toNat = mwMul u.a.toList u.b.toList u.len.toNat := by
  refine List.ext_getElem (by simpa using h) fun k hk _ => ?_
  have hkl : k < u.len.toNat := by
    rw [List.length_take] at hk
    omega
  simp [mwProduct, tabulate_getElem, hkl]

/-- The words of MW_A from L on are kept (R174). -/
theorem mwProduct_getElem_of_le (u : MwUnit) {k : Nat} (hk : k < 32) (h : u.len.toNat ≤ k) :
    (mwProduct u)[k] = u.a[k] := by
  simp [mwProduct, tabulate_getElem, Nat.not_lt.mpr h, hk]

theorem exec_mwMul_of_legal {s : State} (h : 1 ≤ s.mw.len.toNat ∧ s.mw.len.toNat ≤ 32) :
    exec .mwMul s = .next (okAfter { s with mw := { s.mw with a := mwProduct s.mw } } .none) := by
  simp only [exec, execMwMul]
  rw [if_neg (by omega)]
  rfl

theorem exec_mwMul_of_illegal {s : State} (h : s.mw.len.toNat = 0 ∨ 32 < s.mw.len.toNat) :
    exec .mwMul s = .next (errorAfter s .unsupportedConfig) := by
  simp only [exec, execMwMul]
  rw [if_pos (by omega), State.raise, State.raised_eq_errorAfter]

/-- Settles O51: below L the new MW_A is MWMUL of the two arrays, which is the product modulo `2^(32L)`. -/
theorem mwMulWritesTheProduct : Obligations.MwMulWritesTheProduct := by
  intro s
  refine ⟨fun hl => ⟨mwProduct s.mw, exec_mwMul_of_legal hl, ?_, ?_⟩, exec_mwMul_of_illegal⟩
  · rw [mwProduct_take s.mw hl.2, wordsValue_mwMul _ _ _ (by simpa using hl.2)]
  · exact fun k hk hle => mwProduct_getElem_of_le s.mw hk hle

/-! ### Words by index -/

theorem wordIndex_of_lt {idx : Byte} (h : idx.toNat < 32) : wordIndex idx = some ⟨idx.toNat, h⟩ := dif_pos h

theorem wordIndex_of_le {idx : Byte} (h : 32 ≤ idx.toNat) : wordIndex idx = none := dif_neg (Nat.not_lt.mpr h)

theorem operandWord_eq_ofNat (op : Word64) : operandWord op = BitVec.ofNat 32 op.toNat :=
  (BitVec.ofNat_toNat 32 op).symm

/-- Settles O52: an index below 32 names a word, which takes the low half of OP; any other index names none. -/
theorem mwLoadsStoreOneWord : Obligations.MwLoadsStoreOneWord := by
  intro idx op s
  constructor
  · intro h
    simp only [exec, execMwLda, execMwLdb, wordIndex_of_lt h, operandWord_eq_ofNat]
    exact ⟨rfl, rfl⟩
  · intro h
    simp only [exec, execMwLda, execMwLdb, wordIndex_of_le h, State.raise, State.raised_eq_errorAfter, and_self]

/-- Settles O54: an index below 32 names a word, which is zero-extended; any other index names none. -/
theorem mwReadsReturnTheWord : Obligations.MwReadsReturnTheWord := by
  intro idx s
  constructor
  · intro h
    simp only [exec, execMwRda, execMwRdb, wordIndex_of_lt h, BitVec.ofNat_toNat]
    exact ⟨rfl, rfl⟩
  · intro h
    simp only [exec, execMwRda, execMwRdb, wordIndex_of_le h, State.raise, State.raised_eq_errorAfter, and_self]

/-! ### MW_XORB -/

/-- Settles O53: the byte is zero-extended, so the XOR of the words is the XOR of their numbers. -/
theorem mwXorbChangesWordZero : Obligations.MwXorbChangesWordZero := by
  intro b s
  refine ⟨s.mw.a.set 0 (s.mw.a[0] ^^^ b.setWidth 32), rfl, ?_, fun k hk hne => ?_⟩
  · rw [Vector.getElem_set_self, BitVec.toNat_xor, BitVec.toNat_setWidth_of_le (by decide)]
  · exact Vector.getElem_set_ne _ hk hne.symm

end Sys2Proof.Machine
end

section
/-! The FNV unit (43_fnv.md): its constants (R191), the mixing step as the number of R192, and the commands that
start a computation and feed it (R194, R195, R197). -/

namespace Sys2Proof.Machine

open Sys2Proof Sys2Proof.Claims

/-! ### The constants -/

/-- Settles O26, one width code at a time: the literals against the form of the prime and the FNV-0 hash of R191. -/
theorem fnvConstantsAreTheStandardOnes : Obligations.FnvConstantsAreTheStandardOnes := by
  intro code
  obtain ⟨k, hk⟩ := code
  match k with
  | 0 | 1 | 2 | 3 | 4 | 5 => exact ⟨_, rfl, rfl, by decide +kernel, by decide +kernel⟩
  | 6 | 7 => rfl
  | k + 8 => exact absurd hk (Nat.not_lt.mpr (Nat.le_add_left 8 k))

/-- Every supported width is a whole number of words, from one to 32 of them (R191). -/
theorem fnvParams?_width_words {c : BitVec 3} {p : FnvParams} (h : fnvParams? c = some p) :
    32 ∣ p.width ∧ 32 ≤ p.width ∧ p.width ≤ 1024 := by
  unfold fnvParams? at h
  split at h
  case h_7 => cases h
  all_goals
    cases h
    decide

/-! ### The mixing step -/

/-- FNV_FEED1 is the step on numbers: the accumulator's 1024 bits hold every supported width, so cutting the product
to them first loses nothing (R192). -/
theorem fnvFeed1_acc_toNat {u : FnvUnit} {p : FnvParams} (hp : fnvParams? u.act.width = some p) (b : Byte) :
    (fnvFeed1 u b).acc.toNat = fnvMix u.act.mix p.width p.prime.toNat u.acc.toNat b := by
  obtain ⟨-, -, hle⟩ := fnvParams?_width_words hp
  have hpow := Nat.pow_dvd_pow 2 hle
  have hb : (b.setWidth 1024).toNat = b.toNat := BitVec.toNat_setWidth_of_le (by decide)
  cases hmix : u.act.mix <;>
    simp only [fnvFeed1, fnvMix, hmix, fnvParams_of_some hp, keepLow_toNat, BitVec.toNat_mul, BitVec.toNat_xor, hb,
      Nat.mod_mod_of_dvd _ hpow]

theorem fnvFeed1_eq_fnvMix {u : FnvUnit} {p : FnvParams} (hp : fnvParams? u.act.width = some p) (b : Byte) :
    fnvFeed1 u b =
      { u with acc := BitVec.ofNat 1024 (fnvMix u.act.mix p.width p.prime.toNat u.acc.toNat b) } := by
  rw [fnvFeed1_eq, ← fnvFeed1_acc_toNat hp, BitVec.ofNat_toNat, BitVec.setWidth_eq]

@[simp] theorem foldl_fnvFeed1_act (bs : List Byte) (u : FnvUnit) : (bs.foldl fnvFeed1 u).act = u.act :=
  List.foldlRecOn (motive := fun v => v.act = u.act) bs fnvFeed1 rfl fun v hv b _ => (fnvFeed1_act v b).trans hv

/-- Bytes fed in order are steps on numbers in order, all under the latched configuration (R190, R192). -/
theorem foldl_fnvFeed1_acc_toNat {u : FnvUnit} {p : FnvParams} (hp : fnvParams? u.act.width = some p)
    (bs : List Byte) :
    (bs.foldl fnvFeed1 u).acc.toNat = bs.foldl (fnvMix u.act.mix p.width p.prime.toNat) u.acc.toNat := by
  induction bs generalizing u with
  | nil => rfl
  | cons b bs ih =>
    have hact := fnvFeed1_act u b
    rw [List.foldl_cons, List.foldl_cons, ih (hact ▸ hp), hact, fnvFeed1_acc_toNat hp]

/-! ### The commands -/

/-- The unit that a successful FNV_START leaves: FNV_CFG latched, the offset basis loaded, ACTIVE (R194). -/
def fnvStarted (u : FnvUnit) (p : FnvParams) : FnvUnit :=
  { cfg := u.cfg, act := u.cfg, phase := .active, acc := p.offset }

theorem exec_fnvStart_of_some {s : State} {p : FnvParams} (hp : fnvParams? s.fnv.cfg.width = some p) :
    exec .fnvStart s = .next (okAfter { s with fnv := fnvStarted s.fnv p } .none) := by
  simp only [exec, execFnvStart, hp]
  rfl

theorem exec_fnvStart_of_none {s : State} (hp : fnvParams? s.fnv.cfg.width = none) :
    exec .fnvStart s = .next (errorAfter { s with fnv := { s.fnv with phase := .idle } } .unsupportedConfig) := by
  simp only [exec, execFnvStart, hp, State.raise, State.raised_eq_errorAfter]

/-- Settles O27: the table of constants has an entry for the width code of FNV_CFG, or none. -/
theorem fnvStartLatchesTheConfiguration : Obligations.FnvStartLatchesTheConfiguration := by
  intro s
  cases hp : fnvParams? s.fnv.cfg.width with
  | some p => exact exec_fnvStart_of_some hp
  | none => exact exec_fnvStart_of_none hp

/-- Settles O28: FNV_BYTE is one feed, which is the step on the number. -/
theorem fnvByteMixesTheByte : Obligations.FnvByteMixesTheByte := by
  intro b s p hactive hp
  simp only [exec, execFnvByte, hactive, fnvFeed1_eq_fnvMix hp]
  rfl

/-- An EMIT in range to a unit that accepts input feeds it the bytes in order (R152). -/
theorem exec_emit_of_accepts {u : EmitUnit} {s : State} (h : unitAccepts s u = true) {sz : BitVec 4}
    (hsz : sz.toNat ≤ 3) (op : Word64) :
    exec (.emit (unitCode u) sz op) s =
      .next (okAfter ((numberBytes (2 ^ sz.toNat) op.toNat s.canonOrder).foldl (feedUnit u) s) .none) := by
  rw [exec_emit u hsz, offered_of_accepts h]
  rfl

/-- Settles O24: each clause on one unit is its feed, and an EMIT offers what the commands of its bytes offer, whether
the unit accepts it or not. -/
theorem emitEqualsItsByteCommands : Obligations.EmitEqualsItsByteCommands := by
  intro sz op s hsz bytes
  refine ⟨fun hfnv => ?_, fun hcrc => ?_, fun hsha => ?_, fun u => ?_⟩
  · rw [← foldl_feedUnit_fnv]
    exact exec_emit_of_accepts (u := .fnv) (decide_eq_true hfnv) hsz op
  · rw [← foldl_feedUnit_crc]
    exact exec_emit_of_accepts (u := .crc) (decide_eq_true hcrc) hsz op
  · rw [← foldl_feedUnit_sha]
    exact exec_emit_of_accepts (u := .sha) (decide_eq_true hsha) hsz op
  · rw [exec_emit u hsz, runAll_oneByte u (numberBytes_ne_nil (Nat.two_pow_pos _).ne' _ _)]

end Sys2Proof.Machine
end

section
/-! The word datapath of the FNV unit (43_fnv.md R193): its words as the digits of a number, and its step as the number
of R192. -/

namespace Sys2Proof.Machine

open Sys2Proof Sys2Proof.Claims

/-! ### Words and numbers -/

theorem wordsValue_append_singleton (xs : List Word32) (y : Word32) :
    wordsValue (xs ++ [y]) = wordsValue xs + 2 ^ (32 * xs.length) * y.toNat := by
  induction xs with
  | nil => simp [wordsValue]
  | cons x xs ih =>
    rw [List.cons_append, wordsValue, ih, wordsValue, List.length_cons, Nat.mul_succ, Nat.pow_add]
    ring

@[simp] theorem expandWords_length {w : Nat} (x : BitVec w) (l : Nat) : (expandWords x l).length = l := by
  simp [expandWords]

/-- EXPAND(c, L) holds the low `32 * L` bits of c (R178). -/
theorem wordsValue_expandWords {w : Nat} (x : BitVec w) (l : Nat) :
    wordsValue (expandWords x l) = x.toNat % 2 ^ (32 * l) := by
  induction l with
  | zero => simp [expandWords, wordsValue, Nat.mod_one]
  | succ l ih =>
    have hword : (wordOf x l).toNat = x.toNat / 2 ^ (32 * l) % 2 ^ 32 := by
      rw [wordOf, BitVec.extractLsb'_toNat, Nat.shiftRight_eq_div_pow]
    have hsucc : expandWords x (l + 1) = expandWords x l ++ [wordOf x l] := by simp [expandWords, List.range_succ]
    rw [hsucc, wordsValue_append_singleton, ih, hword, expandWords_length, Nat.mul_succ, Nat.pow_add, Nat.mod_mul]

/-- An array of at most 32 words fits into the 1024 bits of the accumulator (R50). -/
theorem wordsNumber_toNat {xs : List Word32} (h : xs.length ≤ 32) : (wordsNumber xs).toNat = wordsValue xs := by
  induction xs with
  | nil => exact BitVec.toNat_zero
  | cons x xs ih =>
    have hxs : xs.length ≤ 32 := Nat.le_of_succ_le h
    have hle : 32 * (x :: xs).length ≤ 1024 := by omega
    have hfit := Nat.lt_of_lt_of_le (wordsValue_lt (x :: xs)) (Nat.pow_le_pow_right Nat.two_pos hle)
    have hshift : wordsValue xs <<< 32 ≤ wordsValue (x :: xs) := by
      rw [Nat.shiftLeft_eq, wordsValue]
      omega
    rw [wordsNumber, BitVec.toNat_or, BitVec.toNat_shiftLeft, ih hxs, Nat.mod_eq_of_lt (Nat.lt_of_le_of_lt hshift hfit),
      BitVec.toNat_setWidth_of_le (by decide), ← Nat.shiftLeft_add_eq_or_of_lt x.isLt, Nat.shiftLeft_eq, wordsValue,
      Nat.mul_comm, Nat.add_comm]

/-! ### The XOR on word 0 -/

/-- A byte XORed into word 0 (R193). -/
def xorByte (b : Byte) : List Word32 → List Word32
  | [] => []
  | x :: xs => (x ^^^ b.setWidth 32) :: xs

@[simp] theorem xorByte_length (b : Byte) (xs : List Word32) : (xorByte b xs).length = xs.length := by
  cases xs <;> rfl

/-- A byte changes the lowest digit in base `2^32` alone. -/
theorem wordsValue_xorByte (b : Byte) {xs : List Word32} (h : xs ≠ []) :
    wordsValue (xorByte b xs) = wordsValue xs ^^^ b.toNat := by
  cases xs with
  | nil => exact absurd rfl h
  | cons x xs =>
    have hb : b.toNat < 2 ^ 32 := Nat.lt_of_lt_of_le b.isLt (by decide)
    have hdiv := Nat.xor_div_two_pow (a := wordsValue (x :: xs)) (b := b.toNat) (n := 32)
    have hmod := Nat.xor_mod_two_pow (a := wordsValue (x :: xs)) (b := b.toNat) (n := 32)
    have hx := x.isLt
    have hlow : wordsValue (x :: xs) % 2 ^ 32 = x.toNat := by
      rw [wordsValue]
      omega
    have hhigh : wordsValue (x :: xs) / 2 ^ 32 = wordsValue xs := by
      rw [wordsValue]
      omega
    rw [hhigh, Nat.div_eq_of_lt hb, Nat.xor_zero] at hdiv
    rw [hlow, Nat.mod_eq_of_lt hb] at hmod
    rw [xorByte, wordsValue, BitVec.toNat_xor, BitVec.toNat_setWidth_of_le (by decide), ← hmod, ← hdiv]
    exact Nat.mod_add_div _ _

/-! ### The step -/

/-- The new accumulator of the word datapath, on `l` words (R193). -/
def mixWords (mix : Mixing) (prime acc : BitVec 1024) (b : Byte) (l : Nat) : List Word32 :=
  match mix with
  | .a => mwMul (xorByte b (expandWords acc l)) (expandWords prime l) l
  | .b => xorByte b (mwMul (expandWords acc l) (expandWords prime l) l)

/-- The word datapath changes FNV_ACC alone. -/
theorem fnvFeedWords_eq (u : FnvUnit) (b : Byte) :
    fnvFeedWords u b =
      { u with
        acc := wordsNumber (mixWords u.act.mix (fnvParams u.act.width).prime u.acc b
          ((fnvParams u.act.width).width / 32)) } := by
  cases hmix : u.act.mix <;> simp only [fnvFeedWords, mixWords, hmix] <;> rfl

@[simp] theorem mixWords_length (mix : Mixing) (prime acc : BitVec 1024) (b : Byte) (l : Nat) :
    (mixWords mix prime acc b l).length = l := by
  cases mix <;> simp [mixWords]

/-- MWMUL by the expanded prime multiplies by the prime modulo `2^(32 L)`, whatever the prime is (R179). -/
theorem wordsValue_mwMul_expandWords {as : List Word32} {l : Nat} (has : as.length = l) (prime : BitVec 1024) :
    wordsValue (mwMul as (expandWords prime l) l) = wordsValue as * prime.toNat % 2 ^ (32 * l) := by
  rw [wordsValue_mwMul _ _ _ (by simp), List.take_of_length_le has.le, List.take_of_length_le (by simp),
    wordsValue_expandWords, Nat.mul_mod_mod]

theorem wordsValue_mixWords (mix : Mixing) (prime : BitVec 1024) {acc : BitVec 1024} (b : Byte) {l : Nat}
    (hl : 1 ≤ l) (hacc : acc.toNat < 2 ^ (32 * l)) :
    wordsValue (mixWords mix prime acc b l) = fnvMix mix (32 * l) prime.toNat acc.toNat b := by
  have hvalue : wordsValue (expandWords acc l) = acc.toNat := by
    rw [wordsValue_expandWords, Nat.mod_eq_of_lt hacc]
  have hne {xs : List Word32} (hxs : xs.length = l) : xs ≠ [] := List.ne_nil_of_length_pos (by omega)
  cases mix with
  | a =>
    rw [mixWords, fnvMix, wordsValue_mwMul_expandWords (by simp), wordsValue_xorByte b (hne (by simp)), hvalue]
  | b =>
    rw [mixWords, fnvMix, wordsValue_xorByte b (hne (by simp)), wordsValue_mwMul_expandWords (by simp), hvalue]

/-- Settles O29: both datapaths give the number of R192. -/
theorem fnvWordDatapathAgrees : Obligations.FnvWordDatapathAgrees := by
  intro u b p hp hacc
  obtain ⟨⟨l, hwidth⟩, hword, hle⟩ := fnvParams?_width_words hp
  have hwords : p.width / 32 = l := by omega
  have hpos : 1 ≤ l := by omega
  have hfit : l ≤ 32 := by omega
  rw [hwidth] at hacc
  rw [fnvFeedWords_eq, fnvFeed1_eq, fnvParams_of_some hp, hwords]
  congr 1
  apply BitVec.eq_of_toNat_eq
  rw [wordsNumber_toNat (by simpa using hfit), wordsValue_mixWords _ _ b hpos hacc, fnvFeed1_acc_toNat hp, hwidth]

end Sys2Proof.Machine
end

section
/-! A whole FNV computation (43_fnv.md R190): FNV_START, any bytes, FNV_DIGEST. -/

namespace Sys2Proof.Machine

open Sys2Proof Sys2Proof.Claims

/-- Byte commands to an ACTIVE unit leave it fed with their bytes; of no byte, they leave the state (R195). -/
theorem runAll_fnvBytes {s : State} (hactive : s.fnv.phase = .active) (m : List Byte) :
    ∃ t, runAll (m.map .fnvByte) s = .next t ∧ t.fnv = m.foldl fnvFeed1 s.fnv := by
  cases m with
  | nil => exact ⟨s, rfl, rfl⟩
  | cons b bs =>
    have haccepts : unitAccepts s .fnv = true := decide_eq_true hactive
    refine ⟨_, runAll_oneByte .fnv (List.cons_ne_nil b bs) s, ?_⟩
    rw [offered_of_accepts haccepts, State.completed_fnv, foldl_feedUnit_fnv]

theorem runAll_fnvStart_bytes {s : State} {p : FnvParams} (hp : fnvParams? s.fnv.cfg.width = some p)
    (m : List Byte) :
    ∃ t, runAll ([.fnvStart] ++ m.map .fnvByte) s = .next t ∧ t.fnv = m.foldl fnvFeed1 (fnvStarted s.fnv p) := by
  simp only [List.singleton_append, runAll, exec_fnvStart_of_some hp]
  exact runAll_fnvBytes (s := okAfter _ _) rfl m

/-- Settles O31: the start loads the offset basis, the bytes are mixed into it in order, and the digest reads it. -/
theorem fnvHashesTheMessage : Obligations.FnvHashesTheMessage := by
  intro m s p hp
  obtain ⟨t, hrun, hfnv⟩ := runAll_fnvStart_bytes hp m
  have hact : t.fnv.act = s.fnv.cfg := by rw [hfnv, foldl_fnvFeed1_act, fnvStarted]
  have hactive : t.fnv.phase = .active := by rw [hfnv, foldl_fnvFeed1_phase, fnvStarted]
  have hacc : t.fnv.acc.toNat = m.foldl (fnvMix s.fnv.cfg.mix p.width p.prime.toNat) p.offset.toNat :=
    hfnv ▸ foldl_fnvFeed1_acc_toNat (u := fnvStarted s.fnv p) hp m
  have hdigest := fnvDigestReturnsTheAccumulator t p hactive (hact ▸ hp)
  rw [hacc, hact] at hdigest
  refine ⟨okAfter t _, ?_, rfl⟩
  simp only [runAll_append hrun, runAll, hdigest]

/-- The two byte orders of a number are each other's reversal (R11). -/
theorem numberBytes_little_eq_reverse_big (n x : Nat) : numberBytes n x .little = (numberBytes n x .big).reverse :=
  List.ext_getElem (by simp [numberBytes]) fun k hk _ => by
    rw [numberBytes, List.length_map, List.length_range] at hk
    have hindex : n - 1 - (n - 1 - k) = k := by omega
    simp [numberBytes, hindex]

/-- Settles O32: both computations hash the message to one number, for ORDER is in no mixing step (R192). -/
theorem fnvDigestOrdersAreReversals : Obligations.FnvDigestOrdersAreReversals := by
  intro m s hwidth run
  obtain ⟨p, hp⟩ := exists_fnvParams? hwidth
  have hash (o : ByteOrder) :=
    fnvHashesTheMessage m { s with fnv := { s.fnv with cfg := { s.fnv.cfg with order := o } } } p hp
  obtain ⟨t₀, hrun₀, hresponse₀⟩ := hash .big
  obtain ⟨t₁, hrun₁, hresponse₁⟩ := hash .little
  rw [numberBytes_little_eq_reverse_big] at hresponse₁
  exact ⟨t₀, t₁, _, hrun₀, hrun₁, hresponse₀, hresponse₁⟩

end Sys2Proof.Machine
end

section
/-! The long division of the CRC unit on numbers (44_crc.md R221): a division step is linear under XOR, a value that
does not reach bit W is only shifted, and the model's table holds what eight steps leave. -/

namespace Sys2Proof.Machine

open Sys2Proof Sys2Proof.Claims

/-! ### Legal widths -/

theorem crcWidthLegal_iff {c : BitVec 7} : crcWidthLegal c = true ↔ legalCrcWidth c.toNat := List.contains_iff_mem

theorem legalCrcWidth_bounds {w : Nat} (h : legalCrcWidth w) : 8 ≤ w ∧ w ≤ 64 := by
  simp only [legalCrcWidth, List.mem_cons, List.not_mem_nil, or_false] at h
  omega

/-! ### Values modulo `2^W` -/

theorem keepLow_eq_ofNat {w : Nat} (n : Nat) (x : BitVec w) : keepLow n x = BitVec.ofNat w (x.toNat % 2 ^ n) := by
  rw [← keepLow_toNat, BitVec.ofNat_toNat, BitVec.setWidth_eq]

theorem keepLow_shiftLeft_toNat {w : Nat} (hw : w ≤ 64) (x : Word64) (k : Nat) :
    (keepLow w (x <<< k)).toNat = x.toNat * 2 ^ k % 2 ^ w := by
  rw [keepLow_toNat, BitVec.toNat_shiftLeft, Nat.shiftLeft_eq, Nat.mod_mod_of_dvd _ (Nat.pow_dvd_pow 2 hw)]

/-! ### One division step -/

/-- A value whose bit `W - 1` is clear is only shifted. -/
theorem divisionStep_of_lt (poly : Nat) {w r : Nat} (h : r * 2 < 2 ^ w) : divisionStep poly w r = r * 2 := by
  have htop : r < 2 ^ (w - 1) := by
    cases w with
    | zero => omega
    | succ w => rw [Nat.pow_succ] at h; exact Nat.lt_of_mul_lt_mul_right h
  rw [divisionStep, Nat.testBit_lt_two_pow htop, if_neg Bool.false_ne_true, Nat.mod_eq_of_lt h]

/-- The bit that leaves the register brings the polynomial in. -/
theorem divisionStep_two_pow (poly w : Nat) : divisionStep poly (w + 1) (2 ^ w) = poly := by
  rw [divisionStep, Nat.add_sub_cancel, Nat.testBit_two_pow_self, if_pos rfl, ← Nat.pow_succ, Nat.mod_self,
    Nat.zero_xor]

theorem xor_mul_two_mod (w a b : Nat) : (a ^^^ b) * 2 % 2 ^ w = (a * 2 % 2 ^ w) ^^^ (b * 2 % 2 ^ w) := by
  have hshift := Nat.shiftLeft_xor_distrib (a := a) (b := b) (i := 1)
  simp only [Nat.shiftLeft_eq, Nat.pow_one] at hshift
  rw [hshift, Nat.xor_mod_two_pow]

/-- A step is linear: the polynomial comes in for the one value, for the other, or twice and then cancels. -/
theorem divisionStep_xor (poly w a b : Nat) :
    divisionStep poly w (a ^^^ b) = divisionStep poly w a ^^^ divisionStep poly w b := by
  simp only [divisionStep, Nat.testBit_xor, xor_mul_two_mod]
  cases a.testBit (w - 1) <;> cases b.testBit (w - 1) <;>
    simp [Nat.xor_comm, Nat.xor_left_comm]

/-! ### Several division steps -/

theorem repeat_divisionStep_of_lt (poly : Nat) {w r n : Nat} (h : r * 2 ^ n < 2 ^ w) :
    Nat.repeat (divisionStep poly w) n r = r * 2 ^ n := by
  induction n with
  | zero => exact (Nat.mul_one r).symm
  | succ n ih =>
    rw [Nat.pow_succ, ← Nat.mul_assoc] at h ⊢
    rw [Nat.repeat, ih (by omega), divisionStep_of_lt poly h]

theorem repeat_divisionStep_xor (poly w n a b : Nat) :
    Nat.repeat (divisionStep poly w) n (a ^^^ b) =
      Nat.repeat (divisionStep poly w) n a ^^^ Nat.repeat (divisionStep poly w) n b := by
  induction n with
  | zero => rfl
  | succ n ih => simp only [Nat.repeat, ih, divisionStep_xor]

theorem divideByte_of_lt (poly : Nat) {w r : Nat} (h : r * 2 ^ 8 < 2 ^ w) : divideByte poly w r = r * 2 ^ 8 :=
  repeat_divisionStep_of_lt poly h

theorem divideByte_xor (poly w a b : Nat) :
    divideByte poly w (a ^^^ b) = divideByte poly w a ^^^ divideByte poly w b :=
  repeat_divisionStep_xor poly w 8 a b

/-- Index 1 reaches bit `W - 1` after seven plain shifts, and the eighth step leaves the polynomial (R221). -/
theorem divideByte_two_pow (poly n : Nat) : divideByte poly (n + 8) (2 ^ n) = poly := by
  have hshifts : Nat.repeat (divisionStep poly (n + 8)) 7 (2 ^ n) = 2 ^ (n + 7) := by
    rw [Nat.pow_add]
    refine repeat_divisionStep_of_lt poly ?_
    rw [← Nat.pow_add]
    exact Nat.pow_lt_pow_succ Nat.one_lt_two
  rw [divideByte, Nat.repeat, hshifts, divisionStep_two_pow]

/-! ### The table -/

theorem crcBit_toNat {w : Nat} (hw : w ≤ 64) (poly r : Word64) :
    (crcBit poly w r).toNat = divisionStep poly.toNat w r.toNat := by
  have hshift : (keepLow w (r <<< 1)).toNat = r.toNat * 2 % 2 ^ w := keepLow_shiftLeft_toNat hw r 1
  rw [crcBit, divisionStep, BitVec.testBit_toNat]
  split
  · rw [BitVec.toNat_xor, hshift]
  · exact hshift

theorem crcBits8_toNat {w : Nat} (hw : w ≤ 64) (poly r : Word64) :
    (crcBits8 poly w r).toNat = divideByte poly.toNat w r.toNat := by
  simp only [crcBits8, divideByte, Nat.repeat, crcBit_toNat hw]

/-- Entry i is what eight division steps leave of i in the most significant byte (R221). -/
theorem crcTable_getElem_toNat {w : Nat} (hw : w ≤ 64) (poly : Word64) {i : Nat} (hi : i < 256) :
    (crcTable poly w)[i].toNat = divideByte poly.toNat w (i * 2 ^ (w - 8) % 2 ^ w) := by
  have hbyte : (BitVec.ofNat 64 i).toNat = i := by
    rw [BitVec.toNat_ofNat]
    omega
  rw [crcTable, tabulate_getElem, crcTableEntry, crcBits8_toNat hw, keepLow_shiftLeft_toNat hw, hbyte]

theorem crcTable_getElem_zero {w : Nat} (hw : w ≤ 64) (poly : Word64) : (crcTable poly w)[0] = 0 := by
  apply BitVec.eq_of_toNat_eq
  rw [crcTable_getElem_toNat hw poly (by decide), Nat.zero_mul, Nat.zero_mod, divideByte_of_lt _ (by simp)]
  rfl

theorem crcTable_getElem_one {w : Nat} (h8 : 8 ≤ w) (hw : w ≤ 64) (poly : Word64) :
    (crcTable poly w)[1].toNat = poly.toNat := by
  obtain ⟨n, rfl⟩ := Nat.exists_eq_add_of_le' h8
  have hlt : 2 ^ n < 2 ^ (n + 8) := Nat.pow_lt_pow_right Nat.one_lt_two (by omega)
  rw [crcTable_getElem_toNat hw poly (by decide), Nat.one_mul, Nat.add_sub_cancel, Nat.mod_eq_of_lt hlt,
    divideByte_two_pow]

end Sys2Proof.Machine
end

section
/-! The commands of the CRC unit: CRC_START, CRC_BYTE and CRC_RDTAB (44_crc.md R222 to R226), and the stability of the
table (R231). -/

namespace Sys2Proof.Machine

open Sys2Proof Sys2Proof.Claims

/-! ### CRC_START -/

theorem exec_crcStart_of_legal {s : State} (h : legalCrcWidth s.crc.ctrl.width.toNat) :
    exec .crcStart s = .next (okAfter { s with crc := crcStarted s.crc } .none) :=
  if_pos (crcWidthLegal_iff.mpr h)

/-- Settles O33: the table is that of the polynomial cut to W bits, whose entries are the long division's. -/
theorem crcStartBuildsTheTable : Obligations.CrcStartBuildsTheTable := by
  intro s hlegal w
  obtain ⟨h8, hw⟩ := legalCrcWidth_bounds hlegal
  have hentry {i : Nat} (hi : i < 256) := crcTable_getElem_toNat hw (keepLow w s.crc.poly) hi
  have hone := crcTable_getElem_one h8 hw (keepLow w s.crc.poly)
  simp only [keepLow_toNat] at hentry hone
  refine ⟨crcTable (keepLow w s.crc.poly) w, ?_, fun i hi => hentry hi, crcTable_getElem_zero hw _, hone⟩
  simp only [exec_crcStart_of_legal hlegal, crcStarted, ← keepLow_eq_ofNat]
  rfl

/-- Settles O34: the model's check of the width is R43's list. -/
theorem crcStartRefusesOtherWidths : Obligations.CrcStartRefusesOtherWidths := by
  intro s hwidth
  rw [← State.raised_eq_errorAfter]
  exact if_neg (mt crcWidthLegal_iff.mp hwidth)

/-! ### CRC_BYTE -/

/-- The bit sum of `reversedByte` is the reflected byte, on each of the 256 bytes. -/
theorem reversedByte_eq_reflect : ∀ b : Byte, reversedByte b = (reflect 8 b).toNat := by decide +kernel

theorem crcInput_eq (refin : Bool) (b : Byte) : crcInput refin b = (if refin then reflect 8 b else b).toNat := by
  cases refin with
  | true => exact reversedByte_eq_reflect b
  | false => rfl

theorem crcInput_lt (refin : Bool) (b : Byte) : crcInput refin b < 2 ^ 8 := by
  rw [crcInput_eq]
  exact BitVec.isLt _

theorem toList_getD_of_lt {α : Type} {n : Nat} (v : Vector α n) {k : Nat} (hk : k < n) (d : α) :
    v.toList.getD k d = v[k] := by
  simp [hk]

theorem highByte_toNat (x : Word64) (n : Nat) : ((x >>> n).setWidth 8).toNat = x.toNat / 2 ^ n % 256 := by
  rw [BitVec.toNat_setWidth, BitVec.toNat_ushiftRight, Nat.shiftRight_eq_div_pow]

/-- CRC_FEED1 on numbers: the table entry at the high byte XOR the input, XORed into the shifted register (R222). -/
theorem crcFeed1_eq_lookup {u : CrcUnit} {w : Nat} (hwidth : u.actCtrl.width.toNat = w) (hw : w ≤ 64) (b : Byte) :
    crcFeed1 u b =
      { u with
        reg := BitVec.ofNat 64 ((u.reg.toNat * 2 ^ 8 % 2 ^ w) ^^^
          (u.table.toList.getD (u.reg.toNat / 2 ^ (w - 8) % 256 ^^^ crcInput u.actCtrl.refin b) 0).toNat) } := by
  subst hwidth
  have hentry (top c : Byte) : u.table.toList.getD (top.toNat ^^^ c.toNat) 0 = u.table[(top ^^^ c).toNat] := by
    rw [← BitVec.toNat_xor, toList_getD_of_lt _ (top ^^^ c).isLt]
  rw [← highByte_toNat, crcInput_eq, hentry, ← keepLow_shiftLeft_toNat hw, ← BitVec.toNat_xor, BitVec.ofNat_toNat,
    BitVec.setWidth_eq, crcFeed1]

theorem exec_crcByte_of_active {s : State} (hactive : s.crc.phase = .active) (b : Byte) :
    exec (.crcByte b) s = .next (okAfter { s with crc := crcFeed1 s.crc b } .none) := by
  simp only [exec, execCrcByte, hactive]
  rfl

/-- Settles O35: CRC_BYTE is one feed, which is the lookup on numbers. -/
theorem crcByteLooksUpTheTable : Obligations.CrcByteLooksUpTheTable := by
  intro b s hactive hlegal
  obtain ⟨-, hw⟩ := legalCrcWidth_bounds hlegal
  rw [exec_crcByte_of_active hactive, crcFeed1_eq_lookup rfl hw]

/-! ### The lookup as long division -/

/-- A byte added at bit n changes the part of the register from bit n on, and keeps the part below. -/
theorem xor_mul_two_pow_eq (r c n : Nat) : r ^^^ c * 2 ^ n = (r % 2 ^ n) ^^^ ((r / 2 ^ n ^^^ c) * 2 ^ n) := by
  refine Nat.eq_of_testBit_eq fun i => ?_
  simp only [Nat.testBit_xor, Nat.testBit_mod_two_pow, Nat.testBit_mul_two_pow, Nat.testBit_div_two_pow]
  rcases Nat.lt_or_ge i n with hlow | hhigh
  · simp [hlow, Nat.not_le.mpr hlow]
  · simp [hhigh, Nat.not_lt.mpr hhigh]

/-- Why a table lookup does the division of a byte: eight steps are linear, they only shift the low part of the
register, and they turn its high byte XOR the input into a table entry (R221, R222). -/
theorem divideByte_high_byte (poly r c : Nat) {w : Nat} (h8 : 8 ≤ w) :
    divideByte poly w (r ^^^ c * 2 ^ (w - 8)) =
      (r * 2 ^ 8 % 2 ^ w) ^^^ divideByte poly w ((r / 2 ^ (w - 8) ^^^ c) * 2 ^ (w - 8)) := by
  have hsplit : 2 ^ w = 2 ^ (w - 8) * 2 ^ 8 := (Nat.pow_sub_mul_pow 2 h8).symm
  have hlow : r % 2 ^ (w - 8) * 2 ^ 8 < 2 ^ w := by
    rw [hsplit]
    exact Nat.mul_lt_mul_of_pos_right (Nat.mod_lt _ (Nat.two_pow_pos _)) (Nat.two_pow_pos 8)
  rw [xor_mul_two_pow_eq, divideByte_xor, divideByte_of_lt poly hlow, hsplit, Nat.mul_mod_mul_right]

theorem crcTable_getD {w : Nat} (h8 : 8 ≤ w) (hw : w ≤ 64) (poly : Word64) {i : Nat} (hi : i < 2 ^ 8) :
    ((crcTable poly w).toList.getD i 0).toNat = divideByte poly.toNat w (i * 2 ^ (w - 8)) := by
  have hfit : i * 2 ^ (w - 8) < 2 ^ w := by
    rw [← Nat.pow_sub_mul_pow 2 h8, Nat.mul_comm]
    exact Nat.mul_lt_mul_of_pos_left hi (Nat.two_pow_pos _)
  rw [toList_getD_of_lt _ hi, crcTable_getElem_toNat hw poly hi, Nat.mod_eq_of_lt hfit]

/-- With the table of its polynomial and a register below `2^W`, CRC_FEED1 is the division of the byte: the entry at the
high byte XOR the input is the division of that byte, and the rest of the register is only shifted. -/
theorem crcFeed1_eq_divideByte {u : CrcUnit} {w : Nat} (hwidth : u.actCtrl.width.toNat = w) (h8 : 8 ≤ w) (hw : w ≤ 64)
    (hreg : u.reg.toNat < 2 ^ w) (htable : u.table = crcTable u.actPoly w) (b : Byte) :
    crcFeed1 u b =
      { u with
        reg := BitVec.ofNat 64 (divideByte u.actPoly.toNat w
          (u.reg.toNat ^^^ crcInput u.actCtrl.refin b * 2 ^ (w - 8))) } := by
  have htop : u.reg.toNat / 2 ^ (w - 8) < 256 := by
    rwa [Nat.div_lt_iff_lt_mul (Nat.two_pow_pos _), Nat.mul_comm, Nat.pow_sub_mul_pow 2 h8]
  have hentry := crcTable_getD h8 hw u.actPoly (Nat.xor_lt_two_pow htop (crcInput_lt u.actCtrl.refin b))
  rw [crcFeed1_eq_lookup hwidth hw, divideByte_high_byte _ _ _ h8, ← hentry, ← htable, Nat.mod_eq_of_lt htop]

/-- Settles O36: the invariant gives a legal width, the table of the latched polynomial and a register below `2^W`. -/
theorem crcByteIsLongDivision : Obligations.CrcByteIsLongDivision := by
  intro b s ⟨hphase, hvalid⟩ hactive
  obtain ⟨hlegal, -, -, hreg, htable⟩ := hvalid (hphase.mp hactive)
  obtain ⟨h8, hw⟩ := legalCrcWidth_bounds (crcWidthLegal_iff.mp hlegal)
  rw [exec_crcByte_of_active hactive, crcFeed1_eq_divideByte rfl h8 hw hreg htable]

/-! ### CRC_RDTAB -/

/-- What CRC_RDTAB answers, from the unit alone: the entry of a valid table, or SEQUENCE (R226). -/
def crcTableRead (u : CrcUnit) (idx : Byte) : Except Status Payload :=
  if u.tvalid then .ok (.value (u.table[idx.toNat]'idx.isLt)) else .error .sequence

theorem exec_crcRdtab (idx : Byte) (s : State) : exec (.crcRdtab idx) s = .next (s.ended (crcTableRead s.crc idx)) := by
  cases hvalid : s.crc.tvalid <;> simp only [exec, execCrcRdtab, crcTableRead, hvalid] <;> rfl

/-- Settles O38: every byte is an index of the table. -/
theorem crcRdtabReadsTheTable : Obligations.CrcRdtabReadsTheTable := by
  intro idx s
  rw [exec_crcRdtab, toList_getD_of_lt _ idx.isLt, ← State.raised_eq_errorAfter]
  cases hvalid : s.crc.tvalid <;> simp only [crcTableRead, hvalid] <;> rfl

theorem State.ended_response_some (a : Except Status Payload) : ∃ r, ∀ s : State, (s.ended a).response = some r := by
  cases a <;> exact ⟨_, fun _ => rfl⟩

/-- CRC_START and RESET are the only commands that change CRC_T or CRC_TVALID (R231). -/
theorem Effect.crc_table_eq {s t : State} {i : Instr} (h : Effect s i t) (hstart : i ≠ .crcStart)
    (hreset : i ≠ .reset) : t.crc.table = s.crc.table ∧ t.crc.tvalid = s.crc.tvalid := by
  cases h with
  | reset => exact absurd rfl hreset
  | crcStarted | crcStartFailed => exact absurd rfl hstart
  | wrote => exact ⟨State.writeReg_crc_table _ _ _, State.writeReg_crc_tvalid _ _ _⟩
  | @fed _ u bs _ _ =>
    cases u with
    | fnv => simp only [State.completed_crc, foldl_feedUnit_fnv, and_self]
    | crc =>
      simp only [State.completed_crc, foldl_feedUnit_crc]
      exact List.foldlRecOn (motive := fun v => v.table = s.crc.table ∧ v.tvalid = s.crc.tvalid) bs crcFeed1
        ⟨rfl, rfl⟩ fun v hv b _ => by rwa [crcFeed1_table, crcFeed1_tvalid]
    | sha => simp only [State.completed_crc, foldl_feedUnit_sha, and_self]
  | refused | answered | fnvStarted | fnvStartFailed | shaInit | shaFinal | mwStored => exact ⟨rfl, rfl⟩

/-- Settles O39: no other effect changes the table, and its reads depend on nothing else. -/
theorem crcTableIsStable : Obligations.CrcTableIsStable := by
  intro s t c rest hs h hstart hreset
  have hkeep : t.crc.table = s.crc.table ∧ t.crc.tvalid = s.crc.tvalid := by
    rcases step_cons_cases hs h with ⟨e, -, rfl⟩ | ⟨i, hd, heff⟩
    · exact ⟨rfl, rfl⟩
    · rw [hd] at hstart hreset
      exact heff.crc_table_eq (fun hi => hstart (congrArg _ hi)) fun hi => hreset (congrArg _ hi)
  obtain ⟨htable, hvalid⟩ := hkeep
  refine ⟨htable, hvalid, fun idx => ?_⟩
  have hread : crcTableRead t.crc idx = crcTableRead s.crc idx := by simp only [crcTableRead, htable, hvalid]
  obtain ⟨r, hr⟩ := State.ended_response_some (crcTableRead s.crc idx)
  exact ⟨_, _, r, exec_crcRdtab idx s, hread ▸ exec_crcRdtab idx t, hr s, hr t⟩

end Sys2Proof.Machine
end

section
/-! The commands of the SHA unit that neither pad nor hash a whole message: SHA_INIT, SHA_BYTE, SHA_DIGEST and
SHA_RDH (45_sha512_256.md R259 to R266), and the length counter (R254). -/

namespace Sys2Proof.Machine

open Sys2Proof Sys2Proof.Claims

/-! ### The length counter -/

/-- The 128-bit length counter as one number (R54). -/
def ShaUnit.bitLength (u : ShaUnit) : Nat := u.lenHi.toNat * 2 ^ 64 + u.lenLo.toNat

theorem lenAdd_bitLength (u : ShaUnit) (n : Word64) :
    (lenAdd u n).bitLength = (u.bitLength + n.toNat) % 2 ^ 128 := by
  have hlo := u.lenLo.isLt
  have hhi := u.lenHi.isLt
  have hn := n.isLt
  simp only [ShaUnit.bitLength, lenAdd, BitVec.toNat_ofNat]
  split
  · have hcarry : (u.lenHi + 1).toNat = (u.lenHi.toNat + 1) % 2 ^ 64 := BitVec.toNat_add _ _
    omega
  · omega

/-- Settles O41: the sum of the counter as one number, in the halves' two places. -/
theorem lengthCounterCarries : Obligations.LengthCounterCarries :=
  fun u n => ⟨lenAdd_bitLength u n, lenAdd_eq u n⟩

/-- The counter's number determines its two halves. -/
theorem ShaUnit.lenLo_eq_ofNat (u : ShaUnit) : u.lenLo = BitVec.ofNat 64 u.bitLength := by
  apply BitVec.eq_of_toNat_eq
  rw [BitVec.toNat_ofNat, bitLength, Nat.mul_add_mod_self_right, Nat.mod_eq_of_lt u.lenLo.isLt]

theorem ShaUnit.lenHi_eq_ofNat (u : ShaUnit) : u.lenHi = BitVec.ofNat 64 (u.bitLength / 2 ^ 64) := by
  have hlo := u.lenLo.isLt
  have hhigh : u.bitLength / 2 ^ 64 = u.lenHi.toNat := by
    rw [bitLength]
    omega
  rw [hhigh, BitVec.ofNat_toNat, BitVec.setWidth_eq]

/-! ### The commands -/

/-- Settles O40: SHA_INIT does not read the state. -/
theorem shaInitReinitializes : Obligations.ShaInitReinitializes := fun _ => rfl

theorem exec_shaByte_of_accepts {s : State} (h : s.sha.phase ≠ .final) (b : Byte) :
    exec (.shaByte b) s = .next (okAfter { s with sha := shaFeed1 s.sha b } .none) := by
  have haccepts : unitAccepts s .sha = true := decide_eq_true h
  exact (exec_oneByte .sha b s).trans (congrArg _ (offered_of_accepts haccepts [b]))

theorem shaFeed1_of_lt (u : ShaUnit) (b : Byte) (h : u.cur.toNat < 127) :
    shaFeed1 u b =
      { h := u.h, buf := u.buf.set u.cur.toNat b u.cur.isLt, cur := u.cur + 1
        lenLo := (lenAdd u 8).lenLo, lenHi := (lenAdd u 8).lenHi, phase := .accum } := by
  have hpad := shaPad1_of_lt (lenAdd u 8) b h
  simp only [shaFeed1, hpad]
  rfl

theorem shaFeed1_of_last (u : ShaUnit) (b : Byte) (h : u.cur.toNat = 127) :
    shaFeed1 u b =
      { h := compress u.h (u.buf.set u.cur.toNat b u.cur.isLt), buf := Vector.replicate 128 0, cur := 0
        lenLo := (lenAdd u 8).lenLo, lenHi := (lenAdd u 8).lenHi, phase := .accum } := by
  have hpad := shaPad1_of_last (lenAdd u 8) b h
  simp only [shaFeed1, hpad]
  rfl

/-- Settles O42: the byte is one feed, whose cursor is below the last place or at it. -/
theorem shaByteAppendsTheByte : Obligations.ShaByteAppendsTheByte := by
  intro b s hphase len block lo hi
  have hlen : (lenAdd s.sha 8).bitLength = len := lenAdd_bitLength s.sha 8
  have hlo : (lenAdd s.sha 8).lenLo = lo := by rw [ShaUnit.lenLo_eq_ofNat, hlen]
  have hhi : (lenAdd s.sha 8).lenHi = hi := by rw [ShaUnit.lenHi_eq_ofNat, hlen]
  rw [exec_shaByte_of_accepts hphase]
  split
  next hcur =>
    have hnext : s.sha.cur + 1 = BitVec.ofNat 7 (s.sha.cur.toNat + 1) := by
      rw [BitVec.ofNat_add, BitVec.ofNat_toNat, BitVec.setWidth_eq]
      rfl
    rw [shaFeed1_of_lt _ _ hcur, hlo, hhi, hnext]
  next hcur =>
    have hlast : s.sha.cur.toNat = 127 := by have := s.sha.cur.isLt; omega
    rw [shaFeed1_of_last _ _ hlast, hlo, hhi]

theorem beBytes_eq_numberBytes {w : Nat} (n : Nat) (x : BitVec w) : beBytes n x = numberBytes n x.toNat .big :=
  orderedBytes_eq_numberBytes n x .big

theorem exec_shaDigest_of_final {s : State} (h : s.sha.phase = .final) :
    exec .shaDigest s = .next (okAfter s (.bytes (shaOut s.sha.h))) := by
  simp only [exec, execShaDigest, h]
  rfl

/-- Settles O47: SHA_OUT in FINAL, and SEQUENCE in the other two phases. -/
theorem shaDigestReturnsFourWords : Obligations.ShaDigestReturnsFourWords := by
  intro s
  simp only [← beBytes_eq_numberBytes, ← State.raised_eq_errorAfter]
  split
  next hphase => exact exec_shaDigest_of_final hphase
  next hphase =>
    cases h : s.sha.phase with
    | final => exact absurd h hphase
    | ready | accum => simp only [exec, execShaDigest, h]; rfl

/-- Settles O49: an index is one of the eight words or out of range. -/
theorem shaRdhReadsTheStateWords : Obligations.ShaRdhReadsTheStateWords := by
  intro idx s
  rw [← State.raised_eq_errorAfter]
  split
  next hidx =>
    have hindex : shaIndex idx = some ⟨idx.toNat, hidx⟩ := dif_pos hidx
    rw [toList_getD_of_lt _ hidx]
    simp only [exec, execShaRdh, hindex]
    rfl
  next hidx =>
    have hindex : shaIndex idx = none := dif_neg hidx
    simp only [exec, execShaRdh, hindex]
    rfl

end Sys2Proof.Machine
end

section
/-! The compression function of the SHA unit: the round constants (45_sha512_256.md R252), the message schedule by its
recurrence (R267), and COMPRESS as eighty rounds on a vector of working variables (R268). -/

namespace Sys2Proof.Machine

open Sys2Proof Sys2Proof.Claims

/-! ### The round constants -/

theorem shaK_length : shaK.length = 80 := rfl

/-- Settles O45: the bounds of the cube of each constant, on closed numbers. -/
theorem roundConstantsAreCubeRoots : Obligations.RoundConstantsAreCubeRoots :=
  ⟨shaK_length, rfl, by decide +kernel⟩

/-! ### Rotations -/

theorem rotr_eq_rotate (x : Word64) {k : Nat} (hk : k < 64) : rotr x k = rotate x k := by
  rw [rotate, BitVec.rotateRight_eq_rotateRightAux_of_lt hk, rotr, BitVec.rotateRightAux]

/-! ### The message words -/

theorem beNumber_append_singleton (bs : List Byte) (b : Byte) :
    beNumber (bs ++ [b]) = (beNumber bs <<< 8) ||| b.setWidth 64 := by
  rw [beNumber, List.foldl_append]
  rfl

theorem beNumber_append_singleton_toNat {bs : List Byte} {n : Nat} (h : (beNumber bs).toNat < 2 ^ (8 * n)) (hn : n < 8)
    (b : Byte) : (beNumber (bs ++ [b])).toNat = (beNumber bs).toNat * 2 ^ 8 + b.toNat := by
  have hshift : (beNumber bs).toNat <<< 8 < 2 ^ 64 := by
    rw [Nat.shiftLeft_eq]
    calc (beNumber bs).toNat * 2 ^ 8 < 2 ^ (8 * n) * 2 ^ 8 := Nat.mul_lt_mul_of_pos_right h (Nat.two_pow_pos 8)
      _ = 2 ^ (8 * n + 8) := (Nat.pow_add ..).symm
      _ ≤ 2 ^ 64 := Nat.pow_le_pow_right Nat.two_pos (by omega)
  rw [beNumber_append_singleton, BitVec.toNat_or, BitVec.toNat_shiftLeft, Nat.mod_eq_of_lt hshift,
    BitVec.toNat_setWidth_of_le (by decide), ← Nat.shiftLeft_add_eq_or_of_lt b.isLt, Nat.shiftLeft_eq]

/-- The number that `n` bytes spell, most significant byte first, as long as 64 bits hold it (R267). -/
theorem beNumber_toNat (f : Nat → Byte) {n : Nat} (hn : n ≤ 8) :
    (beNumber ((List.range n).map f)).toNat =
        ((List.range n).map fun k => (f k).toNat * 2 ^ (8 * (n - 1 - k))).sum ∧
      (beNumber ((List.range n).map f)).toNat < 2 ^ (8 * n) := by
  induction n with
  | zero => exact ⟨rfl, Nat.one_pos⟩
  | succ n ih =>
    obtain ⟨hvalue, hlt⟩ := ih (Nat.le_of_succ_le hn)
    have hlast := (f n).isLt
    have hmap : (List.range (n + 1)).map f = (List.range n).map f ++ [f n] := by simp [List.range_succ]
    rw [hmap, beNumber_append_singleton_toNat hlt hn]
    refine ⟨?_, ?_⟩
    · have hshifted : ((List.range n).map fun k => (f k).toNat * 2 ^ (8 * (n - k))) =
          (List.range n).map fun k => (f k).toNat * 2 ^ (8 * (n - 1 - k)) * 2 ^ 8 := by
        refine List.map_congr_left fun k hk => ?_
        have hk : k < n := List.mem_range.mp hk
        rw [Nat.mul_assoc, ← Nat.pow_add]
        congr 2
        omega
      rw [Nat.add_sub_cancel, List.range_succ, List.map_append, List.sum_append, hshifted, List.sum_map_mul_right,
        ← hvalue]
      simp
    · rw [Nat.mul_succ, Nat.pow_add]
      omega

/-- The bytes of the t-th word of a block (R267). -/
theorem block_wordBytes (m : Vector Byte 128) {t : Nat} (ht : t < 16) :
    (m.toList.drop (8 * t)).take 8 = (List.range 8).map fun k => m.toList.getD (8 * t + k) 0 := by
  have hlen : m.toList.length = 128 := Vector.length_toList
  refine List.ext_getElem (by simp; omega) fun k hk _ => ?_
  have hk8 : k < 8 := Nat.lt_of_lt_of_le hk (List.length_take_le _ _)
  have hindex : 8 * t + k < m.toList.length := by omega
  rw [List.getElem_take, List.getElem_drop, List.getElem_map, List.getElem_range, List.getD_eq_getElem _ _ hindex]

/-- The words of a block, most significant byte first (R267). -/
theorem messageWords_getD_toNat (m : Vector Byte 128) {t : Nat} (ht : t < 16) :
    (wordAt (messageWords m) t).toNat =
      ((List.range 8).map fun k => (m.toList.getD (8 * t + k) 0).toNat * 2 ^ (8 * (7 - k))).sum := by
  have hword : wordAt (messageWords m) t = beNumber ((List.range 8).map fun k => m.toList.getD (8 * t + k) 0) := by
    rw [← block_wordBytes m ht, wordAt, messageWords, List.getD_eq_getElem _ _ (by simpa using ht), List.getElem_map,
      List.getElem_range]
  rw [hword, (beNumber_toNat _ le_rfl).1]

@[simp] theorem messageWords_length (m : Vector Byte 128) : (messageWords m).length = 16 := by
  simp [messageWords]

/-! ### The schedule -/

/-- The word that R267's recurrence gives at `t`, for the words `w`. `nextWord_eq_recurrence` ties it to the
schedule. -/
def recurrence (w : Nat → Word64) (t : Nat) : Word64 :=
  shaSmallSigma1 (w (t - 2)) + w (t - 7) + shaSmallSigma0 (w (t - 15)) + w (t - 16)

/-- The word that one turn of the schedule puts in front of the words so far (R267). -/
def nextWord (ws : List Word64) : Word64 :=
  shaSmallSigma1 (ws.getD 1 0) + ws.getD 6 0 + shaSmallSigma0 (ws.getD 14 0) + ws.getD 15 0

theorem extendSchedule_succ (n : Nat) (ws : List Word64) :
    extendSchedule (n + 1) ws = extendSchedule n (nextWord ws :: ws) := rfl

@[simp] theorem extendSchedule_length (n : Nat) (ws : List Word64) :
    (extendSchedule n ws).length = n + ws.length := by
  induction n generalizing ws with
  | zero => exact (Nat.zero_add _).symm
  | succ n ih =>
    rw [extendSchedule_succ, ih, List.length_cons]
    omega

/-- Newest first, the word at position `k` is the one `k + 1` places before the end of the schedule so far. -/
theorem wordAt_reverse (ws : List Word64) {k : Nat} (hk : k < ws.length) :
    wordAt ws.reverse (ws.length - 1 - k) = ws.getD k 0 := by
  rw [wordAt, List.getD_eq_getElem _ _ (by simp; omega), List.getD_eq_getElem _ _ hk, List.getElem_reverse]
  congr 1
  omega

/-- Extending the schedule changes none of the words so far. -/
theorem wordAt_extendSchedule_of_lt (n : Nat) {ws : List Word64} {t : Nat} (ht : t < ws.length) :
    wordAt (extendSchedule n ws).reverse t = wordAt ws.reverse t := by
  induction n generalizing ws with
  | zero => rfl
  | succ n ih =>
    have hnext : t < (nextWord ws :: ws).length := Nat.lt_succ_of_lt ht
    rw [extendSchedule_succ, ih hnext, List.reverse_cons, wordAt,
      List.getD_append _ _ _ _ (by simpa using ht)]
    rfl

/-- With at least 16 words to go on, the next word is the recurrence's (R267). -/
theorem nextWord_eq_recurrence {ws : List Word64} (h : 16 ≤ ws.length) :
    nextWord ws = recurrence (wordAt ws.reverse) ws.length := by
  have hback {k : Nat} (hk : k < 16) : wordAt ws.reverse (ws.length - (k + 1)) = ws.getD k 0 := by
    rw [← wordAt_reverse ws (by omega), Nat.sub_sub, Nat.add_comm 1 k]
  simp only [nextWord, recurrence, ← hback (k := 1) (by decide), ← hback (k := 6) (by decide),
    ← hback (k := 14) (by decide), ← hback (k := 15) (by decide)]

/-- The recurrence at `t` reads only words before `t`. -/
theorem recurrence_congr {v w : Nat → Word64} {t : Nat} (ht : 16 ≤ t) (h : ∀ j < t, v j = w j) :
    recurrence v t = recurrence w t := by
  simp only [recurrence, h (t - 2) (by omega), h (t - 7) (by omega), h (t - 15) (by omega), h (t - 16) (by omega)]

/-- Every word added to at least 16 words follows the recurrence (R267). -/
theorem wordAt_extendSchedule {n : Nat} {ws : List Word64} (h : 16 ≤ ws.length) {t : Nat} (hlow : ws.length ≤ t)
    (hhigh : t < n + ws.length) :
    wordAt (extendSchedule n ws).reverse t = recurrence (wordAt (extendSchedule n ws).reverse) t := by
  induction n generalizing ws with
  | zero => omega
  | succ n ih =>
    rcases Nat.eq_or_lt_of_le hlow with rfl | hlt
    · have hnew : wordAt (nextWord ws :: ws).reverse ws.length = nextWord ws :=
        wordAt_reverse (nextWord ws :: ws) (Nat.succ_pos _)
      have hfirst : wordAt (extendSchedule (n + 1) ws).reverse ws.length = nextWord ws :=
        (wordAt_extendSchedule_of_lt n (ws := nextWord ws :: ws) (Nat.lt_succ_self _)).trans hnew
      rw [hfirst, nextWord_eq_recurrence h]
      exact recurrence_congr h fun j hj => (wordAt_extendSchedule_of_lt (n + 1) hj).symm
    · rw [extendSchedule_succ]
      exact ih (Nat.le_succ_of_le h) hlt (by rw [List.length_cons]; omega)

theorem schedule_length (m : Vector Byte 128) : (schedule m).length = 80 := by
  rw [schedule, List.length_reverse, extendSchedule_length, List.length_reverse, messageWords_length]

/-- Settles O43: the first 16 words are kept while the others are added, and each added word follows the recurrence. -/
theorem scheduleFollowsTheRecurrence : Obligations.ScheduleFollowsTheRecurrence := by
  intro m
  have hlen : (messageWords m).reverse.length = 16 := by simp
  refine ⟨schedule_length m, fun t ht => ?_, fun t hlow hhigh => ?_⟩
  · rw [← messageWords_getD_toNat m ht, schedule, wordAt_extendSchedule_of_lt 64 (hlen.symm ▸ ht),
      List.reverse_reverse]
  · have hword := wordAt_extendSchedule (n := 64) (ws := (messageWords m).reverse) hlen.ge (hlen.symm ▸ hlow)
      (by rwa [hlen])
    rw [← schedule] at hword
    simpa only [recurrence, shaSmallSigma0, shaSmallSigma1, rotr_eq_rotate, Nat.reduceLT] using hword

/-! ### The rounds -/

/-- The working variables a..h as a vector. -/
def ShaWork.toVector (x : ShaWork) : Vector Word64 8 := #v[x.a, x.b, x.c, x.d, x.e, x.f, x.g, x.h]

/-- The working variables before the first round (R268). -/
def workOf (h : Vector Word64 8) : ShaWork :=
  { a := h[0], b := h[1], c := h[2], d := h[3], e := h[4], f := h[5], g := h[6], h := h[7] }

theorem workOf_toVector (h : Vector Word64 8) : (workOf h).toVector = h := by
  refine Vector.ext fun k hk => ?_
  match k with
  | 0 | 1 | 2 | 3 | 4 | 5 | 6 | 7 => rfl
  | k + 8 => exact absurd hk (Nat.not_lt.mpr (Nat.le_add_left 8 k))

theorem shaRounds_append (ps qs : List (Word64 × Word64)) (x : ShaWork) :
    shaRounds (ps ++ qs) x = shaRounds qs (shaRounds ps x) := by
  induction ps generalizing x with
  | nil => rfl
  | cons p ps ih => exact ih _

/-- One round of R268 on the vector of working variables. `workAfter_succ` ties it to the rule, `shaRound_toVector` to
the machine. -/
def roundStep (v : Vector Word64 8) (k w : Word64) : Vector Word64 8 :=
  let t1 := v[7] + (rotate v[4] 14 ^^^ rotate v[4] 18 ^^^ rotate v[4] 41)
    + ((v[4] &&& v[5]) ^^^ (~~~v[4] &&& v[6])) + k + w
  let t2 := (rotate v[0] 28 ^^^ rotate v[0] 34 ^^^ rotate v[0] 39)
    + ((v[0] &&& v[1]) ^^^ (v[0] &&& v[2]) ^^^ (v[1] &&& v[2]))
  #v[t1 + t2, v[0], v[1], v[2], v[3] + t1, v[4], v[5], v[6]]

theorem workAfter_succ (h : Vector Word64 8) (w : List Word64) (t : Nat) :
    workAfter h w (t + 1) = roundStep (workAfter h w t) (wordAt shaK t) (wordAt w t) := by
  rw [workAfter, roundStep]

theorem shaRound_toVector (x : ShaWork) (k w : Word64) : (shaRound x k w).toVector = roundStep x.toVector k w := by
  simp only [shaRound, shaBigSigma0, shaBigSigma1, shaCh, shaMaj, rotr_eq_rotate, Nat.reduceLT]
  rfl

/-- The first `t` rounds over constants and schedule are `t` rounds of R268. -/
theorem shaRounds_toVector (h : Vector Word64 8) {w : List Word64} (hw : w.length = 80) {t : Nat} (ht : t ≤ 80) :
    (shaRounds ((shaK.zip w).take t) (workOf h)).toVector = workAfter h w t := by
  induction t with
  | zero => exact workOf_toVector h
  | succ t ih =>
    have hpair : t < (shaK.zip w).length := by rw [List.length_zip, shaK_length, hw]; exact ht
    have hK : t < shaK.length := shaK_length ▸ ht
    rw [List.take_succ_eq_append_getElem hpair, shaRounds_append, List.getElem_zip, shaRounds, shaRounds,
      shaRound_toVector, ih (Nat.le_of_succ_le ht), workAfter_succ, wordAt, wordAt, List.getD_eq_getElem _ _ hK,
      List.getD_eq_getElem _ _ (hw ▸ ht)]

/-- COMPRESS adds the working variables into the state words, place by place (R268). -/
theorem compress_getElem (h : Vector Word64 8) (m : Vector Byte 128) {k : Nat} (hk : k < 8) :
    (compress h m)[k] = h[k] + (shaRounds (shaK.zip (schedule m)) (workOf h)).toVector[k] := by
  match k with
  | 0 | 1 | 2 | 3 | 4 | 5 | 6 | 7 => rfl
  | k + 8 => exact absurd hk (Nat.not_lt.mpr (Nat.le_add_left 8 k))

/-- Settles O44: the constants and the schedule pair up to eighty rounds. -/
theorem compressRunsEightyRounds : Obligations.CompressRunsEightyRounds := by
  intro h m k hk
  have hall : (shaK.zip (schedule m)).take 80 = shaK.zip (schedule m) :=
    List.take_of_length_le (by rw [List.length_zip, shaK_length, schedule_length]; decide)
  have hrounds := shaRounds_toVector h (schedule_length m) le_rfl
  rw [hall] at hrounds
  simp only [compress_getElem, hrounds]

end Sys2Proof.Machine
end

section
/-! Whole blocks: what the state words are after a byte list whose blocks have been compressed, and the padding that
ends it (45_sha512_256.md R257, R258, R270). -/

namespace Sys2Proof.Machine

open Sys2Proof Sys2Proof.Claims

/-! ### Blocks of a byte list -/

theorem blockOf_getElem (l : List Byte) {k : Nat} (hk : k < 128) : (blockOf l)[k] = l.getD k 0 :=
  Vector.getElem_ofFn _

/-- A block is read from the first 128 bytes alone. -/
theorem blockOf_append {l : List Byte} (h : 128 ≤ l.length) (r : List Byte) : blockOf (l ++ r) = blockOf l :=
  Vector.ext fun k hk => by
    rw [blockOf_getElem _ hk, blockOf_getElem _ hk, List.getD_append _ _ _ _ (Nat.lt_of_lt_of_le hk h)]

/-- One more block after whole blocks is one more compression (R268). -/
theorem compressBlocks_append_block (h : Vector Word64 8) {whole block : List Byte} (hwhole : 128 ∣ whole.length)
    (hblock : block.length = 128) :
    compressBlocks h (whole ++ block) = compress (compressBlocks h whole) (blockOf block) := by
  obtain ⟨n, hn⟩ := hwhole
  have hold : whole.length / 128 = n := by omega
  have hnew : (whole ++ block).length / 128 = n + 1 := by
    rw [List.length_append]
    omega
  have hearlier : (List.range n).foldl (fun v j => compress v (blockOf ((whole ++ block).drop (128 * j)))) h =
      (List.range n).foldl (fun v j => compress v (blockOf (whole.drop (128 * j)))) h := by
    refine List.foldl_ext _ _ _ fun v j hj => ?_
    have hj : j < n := List.mem_range.mp hj
    rw [List.drop_append_of_le_length (by omega), blockOf_append (by rw [List.length_drop]; omega)]
  rw [compressBlocks, hnew, List.range_succ, List.foldl_append, hearlier, List.foldl_cons, List.foldl_nil, ← hn,
    List.drop_left, compressBlocks, hold]

/-! ### The bytes that a unit has taken -/

/-- The bytes that wait in the buffer, below the cursor (R48). -/
def ShaUnit.buffered (u : ShaUnit) : List Byte := u.buf.toList.take u.cur.toNat

@[simp] theorem ShaUnit.buffered_length (u : ShaUnit) : u.buffered.length = u.cur.toNat := by
  have hcur := u.cur.isLt
  rw [buffered, List.length_take, Vector.length_toList]
  omega

/-- The unit has taken the bytes `l` from the state words `h`: the whole blocks of `l` are compressed into `h`, and the
other bytes of `l` wait in the buffer (R255, R257). -/
def ShaUnit.Absorbed (u : ShaUnit) (h : Vector Word64 8) (l : List Byte) : Prop :=
  ∃ whole, l = whole ++ u.buffered ∧ 128 ∣ whole.length ∧ u.h = compressBlocks h whole

theorem ShaUnit.absorbed_buffered (u : ShaUnit) : u.Absorbed u.h u.buffered := ⟨[], rfl, Nat.dvd_zero _, rfl⟩

theorem absorbed_shaFresh : shaFresh.Absorbed shaIv [] := shaFresh.absorbed_buffered

theorem ShaUnit.Absorbed.cur_eq {u : ShaUnit} {h : Vector Word64 8} {l : List Byte} (hu : u.Absorbed h l) :
    u.cur.toNat = l.length % 128 := by
  obtain ⟨whole, rfl, ⟨n, hn⟩, -⟩ := hu
  have hcur := u.cur.isLt
  rw [List.length_append, buffered_length]
  omega

/-- With the cursor at 0 no byte waits, so every byte taken is compressed. -/
theorem ShaUnit.Absorbed.h_eq {u : ShaUnit} {h : Vector Word64 8} {l : List Byte} (hu : u.Absorbed h l)
    (hcur : u.cur = 0) : u.h = compressBlocks h l := by
  obtain ⟨whole, hl, -, hh⟩ := hu
  have hempty : u.buffered = [] := List.eq_nil_of_length_eq_zero (by rw [buffered_length, hcur]; rfl)
  rw [hl, hempty, List.append_nil, hh]

/-- The bytes below the cursor are not those that the new one goes to. -/
theorem ShaUnit.take_set_cur (u : ShaUnit) (b : Byte) :
    (u.buf.set u.cur.toNat b u.cur.isLt).toList.take (u.cur.toNat + 1) = u.buffered ++ [b] := by
  have hcur : u.cur.toNat < u.buf.toList.length := by
    rw [Vector.length_toList]
    exact u.cur.isLt
  rw [Vector.toList_set, List.take_succ_eq_append_getElem (by simpa using hcur), List.getElem_set_self,
    List.take_set_of_le (Nat.le_refl _), buffered]

theorem buffered_shaPad1_of_lt {u : ShaUnit} (b : Byte) (h : u.cur.toNat < 127) :
    (shaPad1 u b).buffered = u.buffered ++ [b] := by
  have hcur : (u.cur + 1).toNat = u.cur.toNat + 1 := by bv_omega
  rw [← u.take_set_cur, shaPad1_of_lt u b h, ShaUnit.buffered, hcur]

/-- The full buffer is the block of the waiting bytes and the last one. -/
theorem set_last_eq_blockOf {u : ShaUnit} (b : Byte) (h : u.cur.toNat = 127) :
    u.buf.set u.cur.toNat b u.cur.isLt = blockOf (u.buffered ++ [b]) := by
  refine Vector.ext fun k hk => ?_
  rw [blockOf_getElem _ hk, ← u.take_set_cur, List.take_of_length_le (by simp [h]), toList_getD_of_lt _ hk]

/-- One byte more is taken: it waits below the last place, and at the last place it completes a block (R257). -/
theorem ShaUnit.Absorbed.after_shaPad1 {u : ShaUnit} {h : Vector Word64 8} {l : List Byte} (hu : u.Absorbed h l)
    (b : Byte) : (shaPad1 u b).Absorbed h (l ++ [b]) := by
  obtain ⟨whole, rfl, hwhole, hh⟩ := hu
  rcases Nat.lt_or_ge u.cur.toNat 127 with hlt | hge
  · refine ⟨whole, ?_, hwhole, ?_⟩
    · rw [buffered_shaPad1_of_lt b hlt, List.append_assoc]
    · rw [shaPad1_of_lt u b hlt, hh]
  · have hlast : u.cur.toNat = 127 := by have := u.cur.isLt; omega
    have hblock : (u.buffered ++ [b]).length = 128 := by simp [hlast]
    refine ⟨whole ++ (u.buffered ++ [b]), ?_, ?_, ?_⟩
    · rw [shaPad1_of_last u b hlast, buffered, List.append_assoc]
      exact (List.append_nil _).symm
    · rw [List.length_append, hblock]
      exact Nat.dvd_add_self_right.mpr hwhole
    · rw [compressBlocks_append_block h hwhole hblock, shaPad1_of_last u b hlast, set_last_eq_blockOf b hlast, hh]

/-- What takes one byte more, fed with a list, takes the list. -/
theorem ShaUnit.Absorbed.foldl {f : ShaUnit → Byte → ShaUnit} {h : Vector Word64 8}
    (hf : ∀ {v : ShaUnit} {k : List Byte}, v.Absorbed h k → ∀ b, (f v b).Absorbed h (k ++ [b]))
    {u : ShaUnit} {l : List Byte} (hu : u.Absorbed h l) (bs : List Byte) : (bs.foldl f u).Absorbed h (l ++ bs) := by
  induction bs generalizing u l with
  | nil => rwa [List.append_nil]
  | cons b bs ih =>
    rw [List.append_cons]
    exact ih (hf hu b)

/-! ### Padding -/

/-- The byte that brings the cursor to 0 has filled the block, and the buffer is cleared (R257). -/
theorem shaPad1_buf_of_cur_zero {u : ShaUnit} {b : Byte} (h : (shaPad1 u b).cur = 0) :
    (shaPad1 u b).buf = Vector.replicate 128 0 := by
  have hlast : u.cur.toNat = 127 := by
    rw [shaPad1_cur] at h
    bv_omega
  rw [shaPad1_of_last u b hlast]

theorem foldl_shaPad1_buf_of_cur_zero {bs : List Byte} (hbs : bs ≠ []) {u : ShaUnit}
    (h : (bs.foldl shaPad1 u).cur = 0) : (bs.foldl shaPad1 u).buf = Vector.replicate 128 0 := by
  rw [← List.dropLast_append_getLast hbs, List.foldl_append] at h ⊢
  exact shaPad1_buf_of_cur_zero h

/-- With enough fuel, the zeros are as many as the distance of the cursor to 112 modulo 128 (R258). -/
theorem shaPadZeros_eq {fuel : Nat} {u : ShaUnit} (h : (112 - u.cur).toNat ≤ fuel) :
    shaPadZeros fuel u = (List.replicate (112 - u.cur).toNat 0).foldl shaPad1 u := by
  induction fuel generalizing u with
  | zero => rw [Nat.le_zero.mp h]; rfl
  | succ fuel ih =>
    rw [shaPadZeros]
    split
    next hcur => rw [hcur]; rfl
    next hcur =>
      have hsucc : (112 - u.cur).toNat = (112 - (shaPad1 u 0).cur).toNat + 1 := by
        rw [shaPad1_cur]
        bv_omega
      rw [ih (by omega), hsucc]
      rfl

/-- The padding bytes of a unit: 0x80, the zeros, and the length counter as 16 big-endian bytes (R258).
`shaPad_eq_foldl` ties it to SHA_PAD. -/
def ShaUnit.padding (u : ShaUnit) : List Byte :=
  [0x80] ++ List.replicate (zeroCount u.cur.toNat) 0 ++ numberBytes 8 u.lenHi.toNat .big
    ++ numberBytes 8 u.lenLo.toNat .big

theorem zeroCount_eq (c : BitVec 7) : zeroCount c.toNat = (112 - (c + 1)).toNat := by
  rw [zeroCount]
  split <;> bv_omega

theorem shaPad_eq_foldl (u : ShaUnit) : shaPad u = u.padding.foldl shaPad1 u := by
  have hzeros : shaPadZeros 128 (shaPad1 u 0x80) =
      (List.replicate (zeroCount u.cur.toNat) 0).foldl shaPad1 (shaPad1 u 0x80) := by
    rw [shaPadZeros_eq (by omega), shaPad1_cur, zeroCount_eq]
  simp only [shaPad, hzeros, beBytes_eq_numberBytes, ShaUnit.padding, List.foldl_append, List.foldl_cons,
    List.foldl_nil]

theorem ShaUnit.padding_ne_nil (u : ShaUnit) : u.padding ≠ [] := by simp [padding]

@[simp] theorem numberBytes_length (n x : Nat) (o : ByteOrder) : (numberBytes n x o).length = n := by
  cases o <;> simp [numberBytes]

/-- The padding fills one block up to cursor 111 and two blocks from 112 on (R258). -/
theorem ShaUnit.cur_add_padding_length (u : ShaUnit) :
    u.cur.toNat + u.padding.length = if u.cur.toNat ≤ 111 then 128 else 256 := by
  have hcur := u.cur.isLt
  simp only [padding, zeroCount, List.length_append, List.length_singleton, List.length_replicate, numberBytes_length]
  split <;> omega

@[simp] theorem shaPad_lenHi (u : ShaUnit) : (shaPad u).lenHi = u.lenHi :=
  shaPad_keeps (P := fun v => v.lenHi = u.lenHi) (fun v b h => (shaPad1_lenHi v b).trans h) rfl

/-- SHA_PAD compresses all that the unit has taken, and the padding (R258). -/
theorem ShaUnit.Absorbed.shaPad_h {u : ShaUnit} {h : Vector Word64 8} {l : List Byte} (hu : u.Absorbed h l) :
    (shaPad u).h = compressBlocks h (l ++ u.padding) := by
  have hpadded := hu.foldl .after_shaPad1 u.padding
  rw [← shaPad_eq_foldl] at hpadded
  exact hpadded.h_eq (shaPad_cur u)

theorem shaPad_buf (u : ShaUnit) : (shaPad u).buf = Vector.replicate 128 0 := by
  have hcur := shaPad_cur u
  rw [shaPad_eq_foldl] at hcur ⊢
  exact foldl_shaPad1_buf_of_cur_zero u.padding_ne_nil hcur

/-- The unit that SHA_FINAL leaves (R258, R264). -/
theorem shaPad_final_eq (u : ShaUnit) :
    { shaPad u with phase := .final } =
      ({ h := compressBlocks u.h (u.buffered ++ u.padding), buf := Vector.replicate 128 0, cur := 0
         lenLo := u.lenLo, lenHi := u.lenHi, phase := .final } : ShaUnit) := by
  simp only [u.absorbed_buffered.shaPad_h, shaPad_buf, shaPad_cur, shaPad_lenLo, shaPad_lenHi]

theorem exec_shaFinal_of_accepts {s : State} (h : s.sha.phase ≠ .final) :
    exec .shaFinal s = .next (okAfter { s with sha := { shaPad s.sha with phase := .final } } .none) := by
  cases hphase : s.sha.phase with
  | final => exact absurd hphase h
  | ready | accum => simp only [exec, execShaFinal, hphase]; rfl

/-- Settles O46: the waiting bytes and the padding are the blocks that SHA_FINAL compresses. -/
theorem shaFinalCompressesThePadding : Obligations.ShaFinalCompressesThePadding := by
  intro s hphase c tail
  have htail : tail = s.sha.buffered ++ s.sha.padding := by
    simp only [tail, c, ShaUnit.buffered, ShaUnit.padding, List.append_assoc]
  refine ⟨?_, ?_⟩
  · rw [htail, List.length_append, ShaUnit.buffered_length, ShaUnit.cur_add_padding_length]
  · rw [exec_shaFinal_of_accepts hphase, shaPad_final_eq, htail]

end Sys2Proof.Machine
end

section
/-! A whole SHA computation (45_sha512_256.md R250, R270): SHA_INIT, the bytes of a message, SHA_FINAL, SHA_DIGEST. -/

namespace Sys2Proof.Machine

open Sys2Proof Sys2Proof.Claims

/-! ### Feeding a message -/

/-- A message byte is taken as a padding byte is; only the length and the phase differ (R255). -/
theorem ShaUnit.Absorbed.after_shaFeed1 {u : ShaUnit} {h : Vector Word64 8} {l : List Byte} (hu : u.Absorbed h l)
    (b : Byte) : (shaFeed1 u b).Absorbed h (l ++ [b]) := by
  have hpad := hu.after_shaPad1 b
  rwa [Absorbed, buffered, ← shaFeed1_buf, ← shaFeed1_cur, ← shaFeed1_h] at hpad

theorem shaFresh_bitLength : shaFresh.bitLength = 0 := rfl

theorem shaFeed1_bitLength (u : ShaUnit) (b : Byte) : (shaFeed1 u b).bitLength = (u.bitLength + 8) % 2 ^ 128 := by
  rw [ShaUnit.bitLength, shaFeed1_lenHi, shaFeed1_lenLo]
  exact lenAdd_bitLength u 8

theorem ShaUnit.bitLength_lt (u : ShaUnit) : u.bitLength < 2 ^ 128 := by
  have hlo := u.lenLo.isLt
  have hhi := u.lenHi.isLt
  rw [bitLength]
  omega

/-- Each byte counts 8 bits, modulo `2^128` (R254, R255). -/
theorem foldl_shaFeed1_bitLength (bs : List Byte) (u : ShaUnit) :
    (bs.foldl shaFeed1 u).bitLength = (u.bitLength + 8 * bs.length) % 2 ^ 128 := by
  induction bs generalizing u with
  | nil => rw [List.foldl_nil, List.length_nil, Nat.mul_zero, Nat.add_zero, Nat.mod_eq_of_lt u.bitLength_lt]
  | cons b bs ih =>
    rw [List.foldl_cons, ih, shaFeed1_bitLength, Nat.mod_add_mod, List.length_cons, Nat.mul_succ, Nat.add_assoc,
      Nat.add_comm 8]

theorem foldl_shaFeed1_phase {u : ShaUnit} (h : u.phase ≠ .final) (bs : List Byte) :
    (bs.foldl shaFeed1 u).phase ≠ .final :=
  List.foldlRecOn (motive := fun v => v.phase ≠ .final) bs shaFeed1 h fun _ _ _ _ => nofun

/-- Byte commands to a unit that accepts input leave it fed with their bytes; of no byte, they leave the state
(R262). -/
theorem runAll_shaBytes {s : State} (h : s.sha.phase ≠ .final) (m : List Byte) :
    ∃ t, runAll (m.map .shaByte) s = .next t ∧ t.sha = m.foldl shaFeed1 s.sha := by
  cases m with
  | nil => exact ⟨s, rfl, rfl⟩
  | cons b bs =>
    have haccepts : unitAccepts s .sha = true := decide_eq_true h
    refine ⟨_, runAll_oneByte .sha (List.cons_ne_nil b bs) s, ?_⟩
    rw [offered_of_accepts haccepts, State.completed_sha, foldl_feedUnit_sha]

theorem runAll_shaInit_bytes (m : List Byte) (s : State) :
    ∃ t, runAll ([.shaInit] ++ m.map .shaByte) s = .next t ∧ t.sha = m.foldl shaFeed1 shaFresh :=
  runAll_shaBytes (s := State.completed { s with sha := shaFresh } .none) nofun m

/-- SHA_FINAL and SHA_DIGEST: the padding is compressed, and the answer is SHA_OUT of the words it leaves (R259,
R264). -/
theorem runAll_shaFinal_digest {s : State} (h : s.sha.phase ≠ .final) :
    ∃ t, runAll [.shaFinal, .shaDigest] s = .next t ∧ t.sha = { shaPad s.sha with phase := .final } ∧
      t.response = some { status := .ok, payload := .bytes (shaOut t.sha.h) } := by
  have hdigest := exec_shaDigest_of_final
    (s := okAfter { s with sha := { shaPad s.sha with phase := .final } } .none) rfl
  simp only [runAll, exec_shaFinal_of_accepts h, hdigest]
  exact ⟨_, rfl, rfl, rfl⟩

/-! ### The padded message -/

/-- Big-endian, the high bytes of a number stand before its low bytes (R11). -/
theorem numberBytes_big_append (a b x : Nat) {y : Nat} (hy : y < 256 ^ b) :
    numberBytes (a + b) (x * 256 ^ b + y) .big = numberBytes a x .big ++ numberBytes b y .big := by
  have hhigh : (x * 256 ^ b + y) / 256 ^ b = x := by
    rw [Nat.mul_comm, Nat.mul_add_div (Nat.pow_pos (by decide)), Nat.div_eq_of_lt hy, Nat.add_zero]
  rw [numberBytes, List.range_add, List.map_append, List.map_map]
  refine congrArg₂ (· ++ ·) (List.map_congr_left fun k hk => ?_) (List.map_congr_left fun k hk => ?_)
  · have hexp : a + b - 1 - k = b + (a - 1 - k) := by
      have := List.mem_range.mp hk
      omega
    rw [hexp, Nat.pow_add, ← Nat.div_div_eq_div_mul, hhigh]
  · have hexp : a + b - 1 - (a + k) = b - 1 - k := by omega
    have hsplit : x * 256 ^ b = 256 ^ (b - 1 - k) * (256 * (x * 256 ^ k)) := by
      have hb : b = (b - 1 - k) + 1 + k := by
        have := List.mem_range.mp hk
        omega
      conv_lhs => rw [hb, Nat.pow_add, Nat.pow_succ]
      ring
    rw [Function.comp_apply, hexp, hsplit, Nat.mul_add_div (Nat.pow_pos (by decide))]
    apply BitVec.eq_of_toNat_eq
    rw [BitVec.toNat_ofNat, BitVec.toNat_ofNat]
    exact Nat.mul_add_mod _ _ _

theorem ShaUnit.numberBytes_bitLength (u : ShaUnit) :
    numberBytes 16 u.bitLength .big = numberBytes 8 u.lenHi.toNat .big ++ numberBytes 8 u.lenLo.toNat .big :=
  numberBytes_big_append 8 8 u.lenHi.toNat u.lenLo.isLt

/-- A unit that has taken a message and counted its bits pads it as R258 says. -/
theorem ShaUnit.Absorbed.append_padding {u : ShaUnit} {h : Vector Word64 8} {m : List Byte} (hu : u.Absorbed h m)
    (hlen : u.bitLength = 8 * m.length % 2 ^ 128) : m ++ u.padding = paddedMessage m := by
  rw [paddedMessage, ← hu.cur_eq, ← hlen, numberBytes_bitLength, padding]
  simp only [List.append_assoc]

theorem paddedMessage_length (m : List Byte) :
    (paddedMessage m).length = 128 * (m.length / 128 + if m.length % 128 ≤ 111 then 1 else 2) := by
  simp only [paddedMessage, zeroCount, List.length_append, List.length_singleton, List.length_replicate,
    numberBytes_length]
  split <;> omega

/-- Settles O48: the fed unit has taken the message and counted its bits, SHA_FINAL compresses it with its padding, and
SHA_DIGEST reads the state words. -/
theorem shaHashesTheMessage : Obligations.ShaHashesTheMessage := by
  intro m s
  obtain ⟨t, hrun, hsha⟩ := runAll_shaInit_bytes m s
  have htaken : t.sha.Absorbed shaIv m := hsha ▸ absorbed_shaFresh.foldl .after_shaFeed1 m
  have hlen : t.sha.bitLength = 8 * m.length % 2 ^ 128 := by
    rw [hsha, foldl_shaFeed1_bitLength, shaFresh_bitLength, Nat.zero_add]
  have hphase : t.sha.phase ≠ .final := by
    rw [hsha]
    exact foldl_shaFeed1_phase (u := shaFresh) nofun m
  have hpad := htaken.shaPad_h
  rw [htaken.append_padding hlen] at hpad
  obtain ⟨f, hfinish, hf, hresponse⟩ := runAll_shaFinal_digest hphase
  refine ⟨f, (runAll_append hrun _).trans hfinish, ?_, paddedMessage_length m, ?_, hresponse⟩
  · rw [hf, hpad]
  · rw [hf, shaPad_lenHi, shaPad_lenLo, ← ShaUnit.bitLength, hlen]

end Sys2Proof.Machine
end

section
/-! The operand ranges (60_exceptions.md R291): the lists of out-of-range fields against the model's tables of
registers, selectors, units and sizes. -/

namespace Sys2Proof.Machine

open Sys2Proof Sys2Proof.Claims

/-! ### Register indices -/

theorem mem_definedRegisters_iff {idx : Byte} : idx ∈ definedRegisters ↔ ¬ outOfRange (.rdreg idx) := by
  simp only [definedRegisters, outOfRange, reservedIndex, List.mem_cons, List.not_mem_nil, or_false]
  bv_omega

theorem mem_writableRegisters_iff {idx : Byte} (op : Word64) :
    idx ∈ writableRegisters ↔ ¬ outOfRange (.wrreg idx op) := by
  simp only [writableRegisters, outOfRange, reservedIndex, List.mem_cons, List.not_mem_nil, or_false]
  bv_omega

theorem regOf_ne_none_of_mem : ∀ idx ∈ definedRegisters, regOf idx ≠ none := by decide

theorem writeMask_ne_none_of_mem : ∀ idx ∈ writableRegisters, writeMask idx.toNat ≠ none := by decide

/-- The indices that RDREG refuses are the ones that name no register (R35). -/
theorem outOfRange_rdreg_iff {idx : Byte} : outOfRange (.rdreg idx) ↔ regOf idx = none :=
  ⟨regAt_of_reservedIndex, fun h => by_contra fun hrange =>
    regOf_ne_none_of_mem idx (mem_definedRegisters_iff.mpr hrange) h⟩

/-- The indices that WRREG refuses are the ones without a write mask (R35, R36). -/
theorem outOfRange_wrreg_iff {idx : Byte} {op : Word64} : outOfRange (.wrreg idx op) ↔ writeMask idx.toNat = none := by
  refine ⟨fun h => ?_, fun h => by_contra fun hrange =>
    writeMask_ne_none_of_mem idx ((mem_writableRegisters_iff op).mpr hrange) h⟩
  simp only [outOfRange, reservedIndex, List.mem_cons, List.not_mem_nil, or_false] at h
  unfold writeMask
  split
  case h_8 => rfl
  all_goals omega

/-! ### Selectors of INFO -/

theorem exists_infoValue {idx : Byte} (h : idx.toNat < 5) : ∃ v, infoValue idx = some v := by
  have hselectors : idx = 0 ∨ idx = 1 ∨ idx = 2 ∨ idx = 3 ∨ idx = 4 := by bv_omega
  rcases hselectors with rfl | rfl | rfl | rfl | rfl <;> exact ⟨_, rfl⟩

/-! ### UNIT and SZ -/

theorem emitUnit_eq_none {unit : BitVec 4} (h : 3 ≤ unit.toNat) : emitUnit unit = none := by
  unfold emitUnit
  split
  case h_4 => rfl
  all_goals omega

theorem emitSize_eq_none {sz : BitVec 4} (h : 4 ≤ sz.toNat) : emitSize sz = none := if_neg (Nat.not_le.mpr h)

/-- A UNIT in range is the code of one of the three units (R101). -/
theorem exists_unitCode {unit : BitVec 4} (h : ¬ 3 ≤ unit.toNat) : ∃ u, unit = unitCode u := by
  have hcodes : unit = 0 ∨ unit = 1 ∨ unit = 2 := by bv_omega
  rcases hcodes with rfl | rfl | rfl
  · exact ⟨.fnv, rfl⟩
  · exact ⟨.crc, rfl⟩
  · exact ⟨.sha, rfl⟩

theorem exec_emit_of_outOfRange {unit sz : BitVec 4} {op : Word64} (h : outOfRange (.emit unit sz op)) (s : State) :
    exec (.emit unit sz op) s = .next (errorAfter s .invalidArgument) := by
  simp only [exec, execEmit, State.raise, State.raised_eq_errorAfter]
  rcases h with hunit | hsz
  · rw [emitUnit_eq_none hunit]
  · rw [emitSize_eq_none hsz]
    split <;> rfl

/-! ### The check of the model -/

/-- Settles O14: each command's check against its bound, and the two lists of registers against R35's. -/
theorem wellFormedMeansInRange : Obligations.WellFormedMeansInRange := by
  intro i
  cases i
  case rdreg idx => exact List.contains_iff_mem.trans mem_definedRegisters_iff
  case wrreg idx op => exact List.contains_iff_mem.trans (mem_writableRegisters_iff op)
  case emit unit sz op =>
    simp only [Instr.wellFormed, outOfRange, Bool.and_eq_true, decide_eq_true_eq]
    omega
  case info idx | shaRdh idx | mwLda idx op | mwLdb idx op | mwRda idx | mwRdb idx =>
    simp only [Instr.wellFormed, outOfRange, decide_eq_true_eq]
    omega
  all_goals exact ⟨fun _ => id, fun _ => rfl⟩

end Sys2Proof.Machine
end

section
/-! How every command ends (60_exceptions.md R291, R292, R294, R296): with the status whose cause applies, and
with OK when no cause does. -/

namespace Sys2Proof.Machine

open Sys2Proof Sys2Proof.Claims

/-! ### The phases that refuse a command -/

theorem Phase.eq_active_of_ne_idle {p : Phase} (h : p ≠ .idle) : p = .active := by
  cases p with
  | idle => exact absurd rfl h
  | active => rfl

/-- A byte command is in the wrong phase when its unit does not accept input (R152, R294). -/
theorem wrongPhase_oneByte_iff {u : EmitUnit} {b : Byte} {s : State} :
    wrongPhase s (oneByte u b) ↔ ¬ unitAccepts s u = true := by
  cases u with
  | fnv => cases hp : s.fnv.phase <;> simp [oneByte, wrongPhase, unitAccepts, hp]
  | crc => cases hp : s.crc.phase <;> simp [oneByte, wrongPhase, unitAccepts, hp]
  | sha => simp [oneByte, wrongPhase, unitAccepts]

theorem wrongPhase_emit_iff {u : EmitUnit} {sz : BitVec 4} {op : Word64} {s : State} :
    wrongPhase s (.emit (unitCode u) sz op) ↔ ¬ unitAccepts s u = true := by
  rw [← wrongPhase_oneByte_iff (b := 0)]
  cases u <;> simp [wrongPhase, unitCode, oneByte]

theorem offered_eq_errorAfter {u : EmitUnit} {s : State} (h : ¬ unitAccepts s u = true) (bs : List Byte) :
    offered u bs s = errorAfter s .sequence := by
  rw [offered_of_not_accepts h, State.raised_eq_errorAfter]

theorem exec_oneByte_of_wrongPhase (u : EmitUnit) {b : Byte} {s : State} (h : wrongPhase s (oneByte u b)) :
    exec (oneByte u b) s = .next (errorAfter s .sequence) := by
  rw [exec_oneByte, offered_eq_errorAfter (wrongPhase_oneByte_iff.mp h)]

theorem exec_oneByte_of_rightPhase (u : EmitUnit) {b : Byte} {s : State} (h : ¬ wrongPhase s (oneByte u b)) :
    ∃ s' p, exec (oneByte u b) s = .next (okAfter s' p) := by
  rw [exec_oneByte, offered_of_accepts (by_contra (mt wrongPhase_oneByte_iff.mpr h))]
  exact ⟨_, _, rfl⟩

/-! ### One rule for each cause -/

/-- A field out of range is INVALID_ARGUMENT in every state (R291). -/
theorem exec_of_outOfRange {i : Instr} (h : outOfRange i) (s : State) :
    exec i s = .next (errorAfter s .invalidArgument) := by
  cases i
  case info idx => exact exec_info_of_none (infoValue_eq_none h) s
  case rdreg idx => exact exec_rdreg_of_none (outOfRange_rdreg_iff.mp h) s
  case wrreg idx op => exact (reservedAndReadOnlyRegistersAreRefused idx op s).2 (outOfRange_wrreg_iff.mp h)
  case emit unit sz op => exact exec_emit_of_outOfRange h s
  case shaRdh idx => exact (shaRdhReadsTheStateWords idx s).trans (if_neg (Nat.not_lt.mpr h))
  case mwLda idx op => exact ((mwLoadsStoreOneWord idx op s).2 h).1
  case mwLdb idx op => exact ((mwLoadsStoreOneWord idx op s).2 h).2
  case mwRda idx => exact ((mwReadsReturnTheWord idx s).2 h).1
  case mwRdb idx => exact ((mwReadsReturnTheWord idx s).2 h).2
  all_goals exact h.elim

/-- The width codes 6 and 7 have no constants (R191). -/
theorem fnvParams?_eq_none {c : BitVec 3} (h : 6 ≤ c.toNat) : fnvParams? c = none := by
  unfold fnvParams?
  split
  case h_7 => rfl
  all_goals omega

/-- A configuration that the unit does not support is UNSUPPORTED_CONFIG (R292). -/
theorem exec_of_unsupported {i : Instr} {s : State} (h : unsupported s i) :
    ∃ s', exec i s = .next (errorAfter s' .unsupportedConfig) := by
  cases i
  case fnvStart => exact ⟨_, exec_fnvStart_of_none (fnvParams?_eq_none h)⟩
  case crcStart => exact ⟨_, crcStartRefusesOtherWidths s h⟩
  case mwMul => exact ⟨s, exec_mwMul_of_illegal h⟩
  all_goals exact h.elim

/-- A command in range that the unit's phase does not accept is SEQUENCE (R294, R296). -/
theorem exec_of_wrongPhase {i : Instr} {s : State} (h : wrongPhase s i) (hrange : ¬ outOfRange i) :
    exec i s = .next (errorAfter s .sequence) := by
  cases i
  case fnvByte b => exact exec_oneByte_of_wrongPhase .fnv h
  case crcByte b => exact exec_oneByte_of_wrongPhase .crc h
  case shaByte b => exact exec_oneByte_of_wrongPhase .sha h
  case emit unit sz op =>
    obtain ⟨hunit, hsz⟩ := not_or.mp hrange
    obtain ⟨u, rfl⟩ := exists_unitCode hunit
    rw [exec_emit u (by omega), offered_eq_errorAfter (wrongPhase_emit_iff.mp h)]
  case shaDigest => exact (shaDigestReturnsFourWords s).trans (if_neg h)
  case crcRdtab idx => exact (crcRdtabReadsTheTable idx s).trans (if_neg (ne_true_of_eq_false h))
  case fnvDigest | crcDigest | shaFinal =>
    simp only [wrongPhase] at h
    simp only [exec, execFnvDigest, execCrcDigest, execShaFinal, h, State.raise, State.raised_eq_errorAfter]
  all_goals exact h.elim

/-- A command without a cause ends with OK (R130). -/
theorem exec_of_no_cause {i : Instr} {s : State} (hrange : ¬ outOfRange i) (hconfig : ¬ unsupported s i)
    (hphase : ¬ wrongPhase s i) : ∃ s' p, exec i s = .next (okAfter s' p) := by
  cases i
  case rdreg idx =>
    obtain ⟨r, hr⟩ := Option.ne_none_iff_exists'.mp (mt outOfRange_rdreg_iff.mpr hrange)
    exact ⟨_, _, exec_rdreg_of_some hr s⟩
  case wrreg idx op =>
    obtain ⟨m, hm⟩ := Option.ne_none_iff_exists'.mp (mt outOfRange_wrreg_iff.mpr hrange)
    obtain ⟨r, hr, hw, -⟩ := writeMask_eq_some hm
    exact ⟨_, _, exec_wrreg_of_writable hr hw op s⟩
  case emit unit sz op =>
    obtain ⟨hunit, hsz⟩ := not_or.mp hrange
    obtain ⟨u, rfl⟩ := exists_unitCode hunit
    exact ⟨_, _, exec_emit_of_accepts (by_contra (mt wrongPhase_emit_iff.mpr hphase)) (by omega) op⟩
  case info idx =>
    obtain ⟨v, hv⟩ := exists_infoValue (Nat.not_le.mp hrange)
    exact ⟨_, _, exec_info_of_some hv s⟩
  case shaRdh idx => exact ⟨_, _, (shaRdhReadsTheStateWords idx s).trans (if_pos (Nat.not_le.mp hrange))⟩
  case mwLda idx op => exact ⟨_, _, ((mwLoadsStoreOneWord idx op s).1 (Nat.not_le.mp hrange)).1⟩
  case mwLdb idx op => exact ⟨_, _, ((mwLoadsStoreOneWord idx op s).1 (Nat.not_le.mp hrange)).2⟩
  case mwRda idx => exact ⟨_, _, ((mwReadsReturnTheWord idx s).1 (Nat.not_le.mp hrange)).1⟩
  case mwRdb idx => exact ⟨_, _, ((mwReadsReturnTheWord idx s).1 (Nat.not_le.mp hrange)).2⟩
  case fnvStart =>
    obtain ⟨p, hp⟩ := exists_fnvParams? (Nat.le_of_lt_succ (Nat.not_le.mp hconfig))
    exact ⟨_, _, exec_fnvStart_of_some hp⟩
  case crcStart => exact ⟨_, _, exec_crcStart_of_legal (not_not.mp hconfig)⟩
  case mwMul =>
    obtain ⟨hzero, hlong⟩ := not_or.mp hconfig
    exact ⟨_, _, exec_mwMul_of_legal ⟨Nat.pos_of_ne_zero hzero, Nat.not_lt.mp hlong⟩⟩
  case fnvByte b => exact exec_oneByte_of_rightPhase .fnv hphase
  case crcByte b => exact exec_oneByte_of_rightPhase .crc hphase
  case shaByte b => exact exec_oneByte_of_rightPhase .sha hphase
  case fnvDigest | crcDigest =>
    have hactive := Phase.eq_active_of_ne_idle hphase
    simp only [exec, execFnvDigest, execCrcDigest, hactive]
    exact ⟨_, _, rfl⟩
  case crcRdtab idx => exact ⟨_, _, if_pos (eq_true_of_ne_false hphase)⟩
  case shaFinal => exact ⟨_, _, exec_shaFinal_of_accepts hphase⟩
  case shaDigest => exact ⟨_, _, exec_shaDigest_of_final (not_not.mp hphase)⟩
  case nop | reset | shaInit | mwXorb b => exact ⟨_, _, rfl⟩

/-! ### The cause of a status -/

/-- What R291, R292 and R294 give as the cause of each status of a decoded command; an EMIT checks its fields before
the phase (R296), and no decoded command is ILLEGAL (R290). `exec_last_iff` ties it to `exec`. -/
def statusCause (s : State) (i : Instr) : Status → Prop
  | .ok => ¬ outOfRange i ∧ ¬ unsupported s i ∧ ¬ wrongPhase s i
  | .illegal => False
  | .invalidArgument => outOfRange i
  | .unsupportedConfig => unsupported s i
  | .sequence => wrongPhase s i ∧ ¬ outOfRange i

theorem exists_statusCause (s : State) (i : Instr) : ∃ e, statusCause s i e := by
  by_cases hrange : outOfRange i
  · exact ⟨.invalidArgument, hrange⟩
  by_cases hconfig : unsupported s i
  · exact ⟨.unsupportedConfig, hconfig⟩
  by_cases hphase : wrongPhase s i
  · exact ⟨.sequence, hphase, hrange⟩
  · exact ⟨.ok, hrange, hconfig, hphase⟩

theorem exec_last_of_cause {i : Instr} {s t : State} (h : exec i s = .next t) {e : Status}
    (hcause : statusCause s i e) : t.last = e := by
  cases e with
  | ok =>
    obtain ⟨hrange, hconfig, hphase⟩ := hcause
    obtain ⟨s', p, hexec⟩ := exec_of_no_cause hrange hconfig hphase
    cases h.symm.trans hexec
    rfl
  | illegal => exact hcause.elim
  | invalidArgument =>
    cases h.symm.trans (exec_of_outOfRange hcause s)
    rfl
  | unsupportedConfig =>
    obtain ⟨s', hexec⟩ := exec_of_unsupported hcause
    cases h.symm.trans hexec
    rfl
  | sequence =>
    obtain ⟨hphase, hrange⟩ := hcause
    cases h.symm.trans (exec_of_wrongPhase hphase hrange)
    rfl

/-- A status is returned exactly for its cause: some cause applies, and no command returns two statuses. -/
theorem exec_last_iff {i : Instr} {s t : State} (h : exec i s = .next t) (e : Status) :
    t.last = e ↔ statusCause s i e := by
  obtain ⟨e', hcause⟩ := exists_statusCause s i
  exact ⟨fun hlast => (exec_last_of_cause h hcause).symm.trans hlast ▸ hcause, exec_last_of_cause h⟩

/-- A failing command records the code of its status in LAST and sets STATUS bit `7 + c` (R37, R38). -/
theorem exec_records_cause {i : Instr} {s t : State} (h : exec i s = .next t) {e : Status} (he : e ≠ .ok)
    (hcause : statusCause s i e) :
    statusCode t.last = statusCode e ∧ (statusNumber t).testBit (7 + statusCode e) = true := by
  obtain rfl := (exec_last_iff h e).mpr hcause
  exact ⟨rfl, statusNumber_testBit_last (Effect.of_exec h).stickyInv_next he⟩

/-- Settles O11: LAST holds INVALID_ARGUMENT exactly for its cause, and the record follows LAST. -/
theorem invalidArgumentCauses : Obligations.InvalidArgumentCauses := fun _ _ _ h =>
  ⟨exec_last_iff h .invalidArgument, exec_records_cause (e := .invalidArgument) h nofun⟩

/-- Settles O12: LAST holds UNSUPPORTED_CONFIG exactly for its cause, and the record follows LAST. -/
theorem unsupportedConfigCauses : Obligations.UnsupportedConfigCauses := fun _ _ _ h =>
  ⟨exec_last_iff h .unsupportedConfig, exec_records_cause (e := .unsupportedConfig) h nofun⟩

/-- Settles O13: LAST holds SEQUENCE exactly for its cause, and the record follows LAST. -/
theorem sequenceCauses : Obligations.SequenceCauses := fun _ _ _ h =>
  ⟨exec_last_iff h .sequence, fun hphase hrange =>
    exec_records_cause (e := .sequence) h nofun ⟨hphase, hrange⟩⟩

end Sys2Proof.Machine
end

section
/-! What a failing command changes (60_exceptions.md R295). -/

namespace Sys2Proof.Machine

open Sys2Proof Sys2Proof.Claims

/-- The state on which a failing command records its error: a failed FNV_START or CRC_START leaves its unit IDLE, and
CRC without a table (R295). -/
def State.stopped (s : State) (i : Instr) : State :=
  { s with
    fnv := { s.fnv with phase := if i = .fnvStart then .idle else s.fnv.phase }
    crc :=
      { s.crc with
        phase := if i = .crcStart then .idle else s.crc.phase
        tvalid := if i = .crcStart then false else s.crc.tvalid } }

theorem State.stopped_of_keepsPhases (s : State) {i : Instr} (hi : keepsPhases i) : s.stopped i = s := by
  obtain ⟨-, hfnv, hcrc⟩ := hi
  simp only [State.stopped, if_neg hfnv, if_neg hcrc]

/-- A failing effect is the record of its error on the state that the failure leaves (R295). -/
theorem Effect.eq_errorAfter {s t : State} {i : Instr} (h : Effect s i t) (hlast : t.last ≠ .ok) :
    t = errorAfter (s.stopped i) t.last := by
  cases h with
  | refused hi => rw [State.stopped_of_keepsPhases s hi, State.raised_eq_errorAfter]; rfl
  | fnvStartFailed | crcStartFailed => rw [State.raised_eq_errorAfter]; rfl
  | answered | reset | wrote | fed | fnvStarted | crcStarted | shaInit | shaFinal | mwStored =>
    exact absurd rfl hlast

/-- Settles O9: a word that does not decode starts nothing, and a decoded command fails with one of its effects. -/
theorem errorsChangeOnlyTheRecord : Obligations.ErrorsChangeOnlyTheRecord := by
  intro s t c rest hs h hlast
  rcases step_cons_cases hs h with ⟨e, hd, rfl⟩ | ⟨i, hd, heff⟩
  · simp [hd, State.raised_eq_errorAfter, errorAfter]
  · simp only [hd, Except.ok.injEq]
    exact heff.eq_errorAfter hlast

end Sys2Proof.Machine
end

section
/-! The reset state (70_reset_and_hazards.md R320): its values element by element, and the invariant. -/

namespace Sys2Proof.Machine

open Sys2Proof Sys2Proof.Claims

/-- Settles O60: at reset FNV and CRC are IDLE, the SHA unit is the initialized one, and the record holds no error and
no response. -/
theorem resetHasTheInvariant : Obligations.ResetHasTheInvariant :=
  ⟨nofun, ⟨⟨nofun, nofun⟩, nofun⟩, shaInv_shaFresh, stickyInv_of_ok rfl, nofun⟩

theorem reset_crc_table_getElem {k : Nat} (hk : k < 256) : State.reset.crc.table[k] = 0 :=
  Vector.getElem_replicate hk

theorem reset_sha_buf_getElem {k : Nat} (hk : k < 128) : State.reset.sha.buf[k] = 0 :=
  Vector.getElem_replicate hk

theorem reset_mw_getElem {k : Nat} (hk : k < 32) : State.reset.mw.a[k] = 0 ∧ State.reset.mw.b[k] = 0 :=
  ⟨Vector.getElem_replicate hk, Vector.getElem_replicate hk⟩

/-- Settles O17: the arrays element by element, and RESET by its exact effect; every other element is written out in
the reset state. -/
theorem resetStateValues : Obligations.ResetStateValues :=
  ⟨rfl, rfl, rfl, rfl, rfl, rfl, rfl, rfl, rfl, rfl, rfl, rfl, rfl, rfl, rfl, rfl, rfl, rfl, rfl,
    fun _ => reset_crc_table_getElem, rfl, fun _ => reset_sha_buf_getElem, rfl, rfl, rfl, rfl,
    fun _ => reset_mw_getElem, fun u => ⟨_, resetRestoresTheResetState u, rfl⟩⟩

end Sys2Proof.Machine
end

section
/-! A running computation reads its latched configuration alone (70_reset_and_hazards.md R334; 10_state.md R42, R46):
other values in the configuration registers commute with the commands that feed a unit or read its result. -/

namespace Sys2Proof.Machine

open Sys2Proof Sys2Proof.Claims

section Reconfigured

variable (s : State) (c : FnvCfg) (k : CrcCtrl) (poly init xorout : Word64)

@[simp] theorem reconfigured_canonOrder : (reconfigured s c k poly init xorout).canonOrder = s.canonOrder := rfl

@[simp] theorem unitAccepts_reconfigured (u : EmitUnit) :
    unitAccepts (reconfigured s c k poly init xorout) u = unitAccepts s u := by
  cases u <;> rfl

theorem ended_reconfigured (a : Except Status Payload) :
    (reconfigured s c k poly init xorout).ended a = reconfigured (s.ended a) c k poly init xorout := by
  cases a <;> rfl

theorem feedUnit_reconfigured (u : EmitUnit) (b : Byte) :
    feedUnit u (reconfigured s c k poly init xorout) b = reconfigured (feedUnit u s b) c k poly init xorout := by
  cases u with
  | fnv => cases hmix : s.fnv.act.mix <;> simp only [feedUnit, reconfigured, fnvFeed1, hmix]
  | crc | sha => rfl

theorem foldl_feedUnit_reconfigured (u : EmitUnit) (bs : List Byte) :
    bs.foldl (feedUnit u) (reconfigured s c k poly init xorout) =
      reconfigured (bs.foldl (feedUnit u) s) c k poly init xorout :=
  List.foldl_hom (reconfigured · c k poly init xorout) fun t b => feedUnit_reconfigured t c k poly init xorout u b

/-- Bytes are accepted or refused, and mixed in, under the latched configuration. -/
theorem offered_reconfigured (u : EmitUnit) (bs : List Byte) :
    offered u bs (reconfigured s c k poly init xorout) = reconfigured (offered u bs s) c k poly init xorout := by
  simp only [offered, unitAccepts_reconfigured, foldl_feedUnit_reconfigured]
  split <;> rfl

theorem exec_oneByte_reconfigured (u : EmitUnit) (b : Byte) :
    exec (oneByte u b) (reconfigured s c k poly init xorout) =
      .next (reconfigured (offered u [b] s) c k poly init xorout) := by
  rw [exec_oneByte, offered_reconfigured]

end Reconfigured

/-- Settles O57, one running command at a time: it offers bytes to a unit, or it ends with an answer that is computed
from the latch. -/
theorem runningComputationsUseTheLatch : Obligations.RunningComputationsUseTheLatch := by
  intro i s t c k poly init xorout hi h
  suffices hcommutes : ∃ t', exec i s = .next t' ∧
      exec i (reconfigured s c k poly init xorout) = .next (reconfigured t' c k poly init xorout) by
    obtain ⟨t', ht', hexec⟩ := hcommutes
    cases h.symm.trans ht'
    exact hexec
  cases i
  case fnvByte b => exact ⟨_, exec_oneByte .fnv b s, exec_oneByte_reconfigured s c k poly init xorout .fnv b⟩
  case crcByte b => exact ⟨_, exec_oneByte .crc b s, exec_oneByte_reconfigured s c k poly init xorout .crc b⟩
  case emit unit sz op =>
    by_cases hrange : outOfRange (.emit unit sz op)
    · exact ⟨_, exec_emit_of_outOfRange hrange s, exec_emit_of_outOfRange hrange _⟩
    · obtain ⟨hunit, hsz⟩ := not_or.mp hrange
      obtain ⟨u, rfl⟩ := exists_unitCode hunit
      refine ⟨_, exec_emit u (by omega) op s, ?_⟩
      rw [exec_emit u (by omega), offered_reconfigured, reconfigured_canonOrder]
  case crcRdtab idx =>
    refine ⟨_, exec_crcRdtab idx s, ?_⟩
    rw [exec_crcRdtab, ended_reconfigured]
    rfl
  case fnvDigest | crcDigest =>
    simp only [exec, execFnvDigest, execCrcDigest, reconfigured]
    split <;> exact ⟨_, rfl, rfl⟩
  all_goals exact hi.elim

end Sys2Proof.Machine
end

section
/-! The units share no state but CANON_ORDER (70_reset_and_hazards.md R333): every command acts on the units one by
one. -/

namespace Sys2Proof.Machine

open Sys2Proof Sys2Proof.Claims

/-! ### Changes of each unit by itself -/

/-- A change of CANON_ORDER and of each unit, where a unit's new value is made from that unit and CANON_ORDER alone.
A part that is not named is kept. -/
structure UnitMap where
  order : ByteOrder → ByteOrder := id
  fnv : ByteOrder → FnvUnit → FnvUnit := fun _ => id
  crc : ByteOrder → CrcUnit → CrcUnit := fun _ => id
  sha : ByteOrder → ShaUnit → ShaUnit := fun _ => id
  mw : ByteOrder → MwUnit → MwUnit := fun _ => id

/-- The state with each part changed, and the record and the port kept. -/
def UnitMap.apply (m : UnitMap) (s : State) : State :=
  { s with
    canonOrder := m.order s.canonOrder
    fnv := m.fnv s.canonOrder s.fnv
    crc := m.crc s.canonOrder s.crc
    sha := m.sha s.canonOrder s.sha
    mw := m.mw s.canonOrder s.mw }

/-- The state `t` is `s` with each unit changed by `m`, and with any record. -/
def UnitMap.Leads (m : UnitMap) (s t : State) : Prop := ∃ l k r, t = (m.apply s).recorded l k r

theorem UnitMap.leads_okAfter {m : UnitMap} {s s' : State} (h : m.apply s = s') (p : Payload) :
    m.Leads s (okAfter s' p) := by
  subst h
  exact ⟨_, _, _, rfl⟩

theorem UnitMap.leads_errorAfter {m : UnitMap} {s s' : State} (h : m.apply s = s') (e : Status) :
    m.Leads s (errorAfter s' e) := by
  subst h
  exact ⟨_, _, _, rfl⟩

theorem UnitMap.leads_ended (s : State) (a : Except Status Payload) : UnitMap.Leads {} s (s.ended a) :=
  ⟨_, _, _, s.ended_eq_recorded a⟩

/-- Two states with one CANON_ORDER keep it in common, and every unit that they have in common. -/
theorem UnitMap.Leads.units_congr {m : UnitMap} {s₁ s₂ t₁ t₂ : State} (h₁ : m.Leads s₁ t₁) (h₂ : m.Leads s₂ t₂)
    (horder : s₁.canonOrder = s₂.canonOrder) :
    t₁.canonOrder = t₂.canonOrder ∧
    (s₁.fnv = s₂.fnv → t₁.fnv = t₂.fnv) ∧ (s₁.crc = s₂.crc → t₁.crc = t₂.crc) ∧
    (s₁.sha = s₂.sha → t₁.sha = t₂.sha) ∧ (s₁.mw = s₂.mw → t₁.mw = t₂.mw) := by
  obtain ⟨l₁, k₁, r₁, rfl⟩ := h₁
  obtain ⟨l₂, k₂, r₂, rfl⟩ := h₂
  simp only [State.recorded, UnitMap.apply, horder]
  exact ⟨trivial, congrArg _, congrArg _, congrArg _, congrArg _⟩

/-- One change of the units, the same for every state, is what the command does but for the record (R333). -/
def Unitwise (i : Instr) : Prop := ∃ m : UnitMap, ∀ s, ∃ t, exec i s = .next t ∧ m.Leads s t

/-! ### The commands that leave the units as they are -/

theorem unitwise_of_readCommand {i : Instr} (hi : readCommand i) : Unitwise i :=
  ⟨{}, fun s => (exec_read hi s).imp' s.ended fun a ha => ⟨ha.1, UnitMap.leads_ended s a⟩⟩

theorem unitwise_of_outOfRange {i : Instr} (hi : outOfRange i) : Unitwise i :=
  ⟨{}, fun s => ⟨_, exec_of_outOfRange hi s, UnitMap.leads_errorAfter rfl _⟩⟩

/-! ### Feeds -/

/-- The change that bytes offered to a unit make: the unit accepts or refuses them by its own phase (R152, R294). -/
def feedMap (u : EmitUnit) (bs : ByteOrder → List Byte) : UnitMap :=
  match u with
  | .fnv => { fnv := fun o x => if x.phase = .active then (bs o).foldl fnvFeed1 x else x }
  | .crc => { crc := fun o x => if x.phase = .active then (bs o).foldl crcFeed1 x else x }
  | .sha => { sha := fun o x => if x.phase ≠ .final then (bs o).foldl shaFeed1 x else x }

theorem feedMap_apply_of_accepts {u : EmitUnit} {s : State} (h : unitAccepts s u = true)
    (bs : ByteOrder → List Byte) : (feedMap u bs).apply s = (bs s.canonOrder).foldl (feedUnit u) s := by
  cases u with
  | fnv =>
    rw [foldl_feedUnit_fnv]
    exact congrArg (fun x => { s with fnv := x }) (if_pos (of_decide_eq_true h))
  | crc =>
    rw [foldl_feedUnit_crc]
    exact congrArg (fun x => { s with crc := x }) (if_pos (of_decide_eq_true h))
  | sha =>
    rw [foldl_feedUnit_sha]
    exact congrArg (fun x => { s with sha := x }) (if_pos (of_decide_eq_true h))

theorem feedMap_apply_of_not_accepts {u : EmitUnit} {s : State} (h : ¬ unitAccepts s u = true)
    (bs : ByteOrder → List Byte) : (feedMap u bs).apply s = s := by
  cases u with
  | fnv => exact congrArg (fun x => { s with fnv := x }) (if_neg (mt decide_eq_true h))
  | crc => exact congrArg (fun x => { s with crc := x }) (if_neg (mt decide_eq_true h))
  | sha => exact congrArg (fun x => { s with sha := x }) (if_neg (mt decide_eq_true h))

theorem feedMap_leads_offered (u : EmitUnit) (bs : ByteOrder → List Byte) (s : State) :
    (feedMap u bs).Leads s (offered u (bs s.canonOrder) s) := by
  by_cases h : unitAccepts s u = true
  · rw [offered_of_accepts h]
    exact UnitMap.leads_okAfter (feedMap_apply_of_accepts h bs) .none
  · rw [offered_eq_errorAfter h]
    exact UnitMap.leads_errorAfter (feedMap_apply_of_not_accepts h bs) .sequence

theorem unitwise_oneByte (u : EmitUnit) (b : Byte) : Unitwise (oneByte u b) :=
  ⟨_, fun s => ⟨_, exec_oneByte u b s, feedMap_leads_offered u (fun _ => [b]) s⟩⟩

/-- The bytes of an EMIT depend on CANON_ORDER, which no feed changes (R150, R152). -/
theorem unitwise_emit (unit sz : BitVec 4) (op : Word64) : Unitwise (.emit unit sz op) := by
  by_cases h : outOfRange (.emit unit sz op)
  · exact unitwise_of_outOfRange h
  · obtain ⟨hunit, hsz⟩ := not_or.mp h
    obtain ⟨u, rfl⟩ := exists_unitCode hunit
    exact ⟨_, fun s => ⟨_, exec_emit u (by omega) op s,
      feedMap_leads_offered u (numberBytes (2 ^ sz.toNat) op.toNat) s⟩⟩

/-! ### Registers -/

/-- The change that a write makes: a register belongs to one part, and a read-only one keeps its value (R35, R36). -/
def writeMap (r : Reg) (v : Word64) : UnitMap :=
  match r with
  | .canonCfg => { order := fun _ => canonOf v }
  | .fnvCfg => { fnv := fun _ x => { x with cfg := fnvCfgOf v } }
  | .crcCtrl => { crc := fun _ x => { x with ctrl := crcCtrlOf v } }
  | .crcPoly => { crc := fun _ x => { x with poly := v } }
  | .crcInit => { crc := fun _ x => { x with init := v } }
  | .crcXorout => { crc := fun _ x => { x with xorout := v } }
  | .mwCfg => { mw := fun _ x => { x with len := mwLenOf v } }
  | .status | .fnvAct | .crcReg | .crcActCtrl | .crcActPoly | .crcActXorout | .shaLenLo | .shaLenHi | .shaCur => {}

theorem writeMap_apply (r : Reg) (v : Word64) (s : State) : (writeMap r v).apply s = s.writeReg r v := by
  cases r <;> rfl

theorem unitwise_wrreg (idx : Byte) (op : Word64) : Unitwise (.wrreg idx op) := by
  by_cases h : outOfRange (.wrreg idx op)
  · exact unitwise_of_outOfRange h
  · obtain ⟨m, hm⟩ := Option.ne_none_iff_exists'.mp (mt outOfRange_wrreg_iff.mpr h)
    obtain ⟨r, hr, hw, -⟩ := writeMask_eq_some hm
    exact ⟨_, fun s =>
      ⟨_, exec_wrreg_of_writable hr hw op s, UnitMap.leads_okAfter (writeMap_apply r _ s) .none⟩⟩

/-! ### The commands of one unit, which end by its own configuration or phase -/

/-- The unit that FNV_START leaves, with the constants of its width code or without (R194). -/
def fnvStartedWith (x : FnvUnit) : Option FnvParams → FnvUnit
  | none => { x with phase := .idle }
  | some p => fnvStarted x p

theorem unitwise_fnvStart : Unitwise .fnvStart := by
  refine ⟨{ fnv := fun _ x => fnvStartedWith x (fnvParams? x.cfg.width) }, fun s => ?_⟩
  cases hp : fnvParams? s.fnv.cfg.width with
  | none =>
    exact ⟨_, exec_fnvStart_of_none hp,
      UnitMap.leads_errorAfter (congrArg (fun o => { s with fnv := fnvStartedWith s.fnv o }) hp) _⟩
  | some p =>
    exact ⟨_, exec_fnvStart_of_some hp,
      UnitMap.leads_okAfter (congrArg (fun o => { s with fnv := fnvStartedWith s.fnv o }) hp) _⟩

theorem unitwise_crcStart : Unitwise .crcStart := by
  refine ⟨{ crc := fun _ x =>
    if crcWidthLegal x.ctrl.width then crcStarted x else { x with phase := .idle, tvalid := false } }, fun s => ?_⟩
  by_cases hw : crcWidthLegal s.crc.ctrl.width = true
  · exact ⟨_, exec_crcStart_of_legal (crcWidthLegal_iff.mp hw),
      UnitMap.leads_okAfter (congrArg (fun x => { s with crc := x }) (if_pos hw)) _⟩
  · exact ⟨_, crcStartRefusesOtherWidths s (mt crcWidthLegal_iff.mpr hw),
      UnitMap.leads_errorAfter (congrArg (fun x => { s with crc := x }) (if_neg hw)) _⟩

theorem unitwise_shaFinal : Unitwise .shaFinal := by
  refine ⟨{ sha := fun _ x => if x.phase = .final then x else { shaPad x with phase := .final } }, fun s => ?_⟩
  by_cases hp : s.sha.phase = .final
  · exact ⟨_, exec_of_wrongPhase (i := .shaFinal) hp id,
      UnitMap.leads_errorAfter (congrArg (fun x => { s with sha := x }) (if_pos hp)) _⟩
  · exact ⟨_, exec_shaFinal_of_accepts hp,
      UnitMap.leads_okAfter (congrArg (fun x => { s with sha := x }) (if_neg hp)) _⟩

theorem unitwise_mwMul : Unitwise .mwMul := by
  refine ⟨{ mw := fun _ x =>
    if x.len.toNat = 0 ∨ 32 < x.len.toNat then x else { x with a := mwProduct x } }, fun s => ?_⟩
  by_cases hl : s.mw.len.toNat = 0 ∨ 32 < s.mw.len.toNat
  · exact ⟨_, exec_mwMul_of_illegal hl,
      UnitMap.leads_errorAfter (congrArg (fun x => { s with mw := x }) (if_pos hl)) _⟩
  · exact ⟨_, exec_mwMul_of_legal (by omega),
      UnitMap.leads_okAfter (congrArg (fun x => { s with mw := x }) (if_neg hl)) _⟩

theorem unitwise_mwLda (idx : Byte) (op : Word64) : Unitwise (.mwLda idx op) := by
  by_cases h : idx.toNat < 32
  · exact ⟨{ mw := fun _ x => { x with a := x.a.set idx.toNat (BitVec.ofNat 32 op.toNat) h } },
      fun s => ⟨_, ((mwLoadsStoreOneWord idx op s).1 h).1, UnitMap.leads_okAfter rfl _⟩⟩
  · exact unitwise_of_outOfRange (Nat.not_lt.mp h)

theorem unitwise_mwLdb (idx : Byte) (op : Word64) : Unitwise (.mwLdb idx op) := by
  by_cases h : idx.toNat < 32
  · exact ⟨{ mw := fun _ x => { x with b := x.b.set idx.toNat (BitVec.ofNat 32 op.toNat) h } },
      fun s => ⟨_, ((mwLoadsStoreOneWord idx op s).1 h).2, UnitMap.leads_okAfter rfl _⟩⟩
  · exact unitwise_of_outOfRange (Nat.not_lt.mp h)

/-! ### Every command -/

/-- The change that RESET makes (R132). -/
def resetMap : UnitMap where
  order _ := State.reset.canonOrder
  fnv _ _ := State.reset.fnv
  crc _ _ := State.reset.crc
  sha _ _ := State.reset.sha
  mw _ _ := State.reset.mw

theorem exec_unitwise (i : Instr) : Unitwise i := by
  cases i
  case info | rdreg | fnvDigest | crcDigest | crcRdtab | shaDigest | shaRdh | mwRda | mwRdb =>
    exact unitwise_of_readCommand trivial
  case fnvByte b => exact unitwise_oneByte .fnv b
  case crcByte b => exact unitwise_oneByte .crc b
  case shaByte b => exact unitwise_oneByte .sha b
  case emit unit sz op => exact unitwise_emit unit sz op
  case wrreg idx op => exact unitwise_wrreg idx op
  case fnvStart => exact unitwise_fnvStart
  case crcStart => exact unitwise_crcStart
  case shaFinal => exact unitwise_shaFinal
  case mwMul => exact unitwise_mwMul
  case mwLda idx op => exact unitwise_mwLda idx op
  case mwLdb idx op => exact unitwise_mwLdb idx op
  case nop => exact ⟨{}, fun s => ⟨_, rfl, UnitMap.leads_okAfter rfl _⟩⟩
  case reset => exact ⟨resetMap, fun s => ⟨_, rfl, _, _, _, rfl⟩⟩
  case shaInit => exact ⟨{ sha := fun _ _ => shaFresh }, fun s => ⟨_, rfl, UnitMap.leads_okAfter rfl _⟩⟩
  case mwXorb b =>
    exact ⟨{ mw := fun _ x => { x with a := x.a.set 0 (x.a[0] ^^^ b.setWidth 32) } },
      fun s => ⟨_, rfl, UnitMap.leads_okAfter rfl _⟩⟩

/-- Settles O58: each unit is left with what the command's change makes of it and of CANON_ORDER. -/
theorem unitsAreIndependent : Obligations.UnitsAreIndependent := by
  intro i s₁ s₂ t₁ t₂ h₁ h₂ horder
  obtain ⟨m, hm⟩ := exec_unitwise i
  obtain ⟨u₁, hu₁, hleads₁⟩ := hm s₁
  obtain ⟨u₂, hu₂, hleads₂⟩ := hm s₂
  cases h₁.symm.trans hu₁
  cases h₂.symm.trans hu₂
  exact hleads₁.units_congr hleads₂ horder

end Sys2Proof.Machine
end
